-- ==== Sys2Proof/Word.lean ====
section
/-!
DEFINITION. The words of the block's interface (10_state.md R15, 00_scope.md R7): DATA and RESULT are 64 bits
(`BUS_WIDTH`), CTRL is 16 bits (`CTRL_WIDTH`), and packed BCD is carried in bytes (00_scope.md R9, R10).
-/

namespace Sys2Proof

/-- DATA and RESULT: `BUS_WIDTH` = 64 bits (00_scope.md R7, 92 D5). -/
abbrev Word := BitVec 64

/-- The control word CTRL: `CTRL_WIDTH` = 16 bits (00_scope.md R7, 92 D2). -/
abbrev Ctrl := BitVec 16

/-- One packed byte: two nibbles, high and low (00_scope.md R9). -/
abbrev Byte := BitVec 8

end Sys2Proof
end

