-- ==== Sys2Proof/Syntax.lean ====
section
/-!
DEFINITION. The requests of the block as syntax: the eight operations of 30_encoding.md R43, each with the operands
its request carries, the raw request (CTRL and DATA, R34), and the lines of the request syntax of R47.
-/

namespace Sys2Proof

/-- The four operation widths (00_scope.md R5): only these exist. -/
inductive Width where
  | w8 | w16 | w32 | w64
  deriving DecidableEq, Repr

/-- A raw request: the control word and the data word, presented together (30_encoding.md R34). -/
structure Request where
  ctrl : Ctrl
  data : Word
  deriving DecidableEq, Repr

/-- The eight operations (30_encoding.md R43). `data` is the request's DATA word, kept whole: which of its bits count is
the meaning's business (R40, R41; log 10). `len` is the field LEN of a decode (R37). -/
inductive Instr where
  | enc8  (data : Word)
  | enc16 (data : Word)
  | enc32 (data : Word)
  | enc64 (data : Word)
  | dec8  (len : BitVec 4) (data : Word)
  | dec16 (len : BitVec 4) (data : Word)
  | dec32 (len : BitVec 4) (data : Word)
  | dec64 (len : BitVec 4) (data : Word)
  deriving DecidableEq, Repr

/-- The mnemonic of 30_encoding.md R43 (the spec's own names, 92 D19). -/
def Instr.mnemonic : Instr → String
  | .enc8 _    => "ENC8"
  | .enc16 _   => "ENC16"
  | .enc32 _   => "ENC32"
  | .enc64 _   => "ENC64"
  | .dec8 _ _  => "DEC8"
  | .dec16 _ _ => "DEC16"
  | .dec32 _ _ => "DEC32"
  | .dec64 _ _ => "DEC64"

/-- Why a CTRL value is reserved (30_encoding.md R38, R44): the first check of R39 that fails, in R39's order (log 9). -/
inductive Reserved where
  /-- RSV1 (bits 15:8) is not zero (93 I1). -/
  | rsv1
  /-- RSV0 (bit 3) is not zero (93 I1). -/
  | rsv0
  /-- An encode with LEN ≠ 0 (93 I3). -/
  | encodeLen
  /-- A decode with LEN > n (93 I2). -/
  | decodeLen
  deriving DecidableEq, Repr

/-- A line of the request syntax (30_encoding.md R47): `ENC<w> <value>` or `DEC<w> [b0, …]`, most significant byte first. -/
inductive AsmLine where
  | enc (w : Width) (value : Nat)
  | dec (w : Width) (bytes : List Byte)
  deriving DecidableEq, Repr

/-- The tokens of a line's text (30_encoding.md R47): operation names, values, and the punctuation of a byte list and of the
source's call forms. -/
inductive AsmToken where
  | name (letters : List Char)
  | value (n : Nat)
  | comma
  | openList
  | closeList
  | openArgs
  | closeArgs
  deriving DecidableEq, Repr

end Sys2Proof
end

