-- ==== Sys2Proof/Machine/Widths.lean ====
section
/-!
DEFINITION. The width table of 00_scope.md R5 and the WIDTH codes of 30_encoding.md R35.
-/

namespace Sys2Proof

/-- w, the width in bits (00_scope.md R5). -/
def Width.bits : Width → Nat
  | .w8 => 8 | .w16 => 16 | .w32 => 32 | .w64 => 64

/-- n = w/8, the packed byte length (00_scope.md R5). -/
def Width.bytes : Width → Nat
  | .w8 => 1 | .w16 => 2 | .w32 => 4 | .w64 => 8

/-- k = w/4, the digit capacity (00_scope.md R5). -/
def Width.digits : Width → Nat
  | .w8 => 2 | .w16 => 4 | .w32 => 8 | .w64 => 16

/-- The WIDTH code of a width (30_encoding.md R35). -/
def Width.code : Width → BitVec 2
  | .w8 => 0b00#2 | .w16 => 0b01#2 | .w32 => 0b10#2 | .w64 => 0b11#2

/-- The width a WIDTH code selects; all four codes are legal (30_encoding.md R35). -/
def Width.ofCode (c : BitVec 2) : Width :=
  match c.toNat with
  | 0 => .w8
  | 1 => .w16
  | 2 => .w32
  | _ => .w64

end Sys2Proof
end

