-- ==== Sys2Proof/Machine/Operands.lean ====
section
/-!
DEFINITION. Operands and results: bytes, nibbles and lanes (00_scope.md R9, 20_memory.md R23, R24), what an operation reads from
DATA (30_encoding.md R40, R41) and how a result becomes the RESULT word (R42).
-/

namespace Sys2Proof.Machine

/-- `hi(b) = b[7:4]` (00_scope.md R9). -/
def hiNibble (b : Byte) : Nat := (b.extractLsb' 4 4).toNat

/-- `lo(b) = b[3:0]` (00_scope.md R9). -/
def loNibble (b : Byte) : Nat := (b.extractLsb' 0 4).toNat

/-- `{t, u}` = 16·t + u: the byte of a digit pair, tens in the high nibble (20_memory.md R24). -/
def packPair (t u : Nat) : Byte := BitVec.ofNat 8 (16 * t + u)

/-- Lane ℓ of a 64-bit word, `X[8ℓ+7 : 8ℓ]` (20_memory.md R23). -/
def lane (x : Word) (l : Nat) : Byte := x.extractLsb' (8 * l) 8

/-- The word that carries a byte sequence right-aligned: S[i] in lane m−1−i, so Σ S[i]·256^(m−1−i) (20_memory.md R23). -/
def wordOfBytes (S : List Byte) : Word :=
  BitVec.ofNat 64 (((List.range S.length).map fun i =>
    (S.getD i 0#8).toNat * 256 ^ (S.length - 1 - i)).sum)

/-- The integer an encode reads: `V = DATA[w-1:0]`; DATA[63:w] is ignored (30_encoding.md R40). -/
def encodeOperand (w : Width) (data : Word) : Nat := (data.extractLsb' 0 w.bits).toNat

/-- The byte sequence a decode reads: B[i] = lane L−1−i for 0 ≤ i < L; the other lanes are ignored (30_encoding.md R41). -/
def decodeOperand (L : Nat) (data : Word) : List Byte :=
  (List.range L).map fun i => lane data (L - 1 - i)

/-- `zext_64(X)`: the RESULT word of a decode (30_encoding.md R42). -/
def wordOfValue (X : Nat) : Word := BitVec.ofNat 64 X

end Sys2Proof.Machine
end

