-- ==== Sys2Proof/Machine/Flags.lean ====
section
/-!
DEFINITION. The block has no flag, condition code or status bit (10_state.md R17), so there is no flag computation. The one
condition an operation computes is the decoder's validity check (41_decode.md R61); it is not an output.
-/

namespace Sys2Proof.Machine

/-- A nibble is a valid digit when it is in 0..9 (00_scope.md R9). -/
def validDigit (nibble : Nat) : Bool := nibble ≤ 9

/-- `valid(P)`: every nibble of every byte is a valid digit (41_decode.md R61). -/
def validBytes (P : List Byte) : Bool :=
  P.all fun b => validDigit (hiNibble b) && validDigit (loNibble b)

end Sys2Proof.Machine
end

