-- ==== Sys2Proof/WellFormed.lean ====
section
/-!
DEFINITION. Well-formedness (30_encoding.md R37, R39): of an instruction as a term, and of a CTRL word as the spec's own
formula.
-/

namespace Sys2Proof

/-- An instruction is well formed when its LEN fits its width: 0 ≤ LEN ≤ n for a decode (30_encoding.md R37). An encode
carries no LEN, and every DATA word is legal (R39). -/
def Instr.wellFormed : Instr → Bool
  | .enc8 _      => true
  | .enc16 _     => true
  | .enc32 _     => true
  | .enc64 _     => true
  | .dec8 len _  => len.toNat ≤ Width.bytes .w8
  | .dec16 len _ => len.toNat ≤ Width.bytes .w16
  | .dec32 len _ => len.toNat ≤ Width.bytes .w32
  | .dec64 len _ => len.toNat ≤ Width.bytes .w64

/-- `wf(CTRL)`, the formula of 30_encoding.md R39, with n(WIDTH) = 2^WIDTH. -/
def wfCtrl (c : Ctrl) : Bool :=
  c.extractLsb' 8 8 == 0#8 && c.getLsbD 3 == false &&
    (if c.getLsbD 2 = false then c.extractLsb' 4 4 == 0#4
     else (c.extractLsb' 4 4).toNat ≤ 2 ^ (c.extractLsb' 0 2).toNat)

end Sys2Proof
end

