-- ==== Sys2Proof/Decode.lean ====
section
/-!
DEFINITION. From a request's bits to an instruction, or a rejection by name (30_encoding.md R34 to R39, R43), and back:
the encoder, and the opcode map as data.
-/

namespace Sys2Proof

/-! ### The fields of CTRL (30_encoding.md R34) -/

/-- WIDTH, bits 1:0. -/
def ctrlWidth (c : Ctrl) : BitVec 2 := c.extractLsb' 0 2

/-- DIR, bit 2: 0 = encode, 1 = decode (30_encoding.md R36). -/
def ctrlDir (c : Ctrl) : Bool := c.getLsbD 2

/-- RSV0, bit 3. -/
def ctrlRsv0 (c : Ctrl) : Bool := c.getLsbD 3

/-- LEN, bits 7:4. -/
def ctrlLen (c : Ctrl) : BitVec 4 := c.extractLsb' 4 4

/-- RSV1, bits 15:8. -/
def ctrlRsv1 (c : Ctrl) : BitVec 8 := c.extractLsb' 8 8

/-! ### Decoding -/

/-- The encode operation of a width (30_encoding.md R43). -/
def encInstr : Width → Word → Instr
  | .w8, data  => .enc8 data
  | .w16, data => .enc16 data
  | .w32, data => .enc32 data
  | .w64, data => .enc64 data

/-- The decode operation of a width (30_encoding.md R43). -/
def decInstr : Width → BitVec 4 → Word → Instr
  | .w8, len, data  => .dec8 len data
  | .w16, len, data => .dec16 len data
  | .w32, len, data => .dec32 len data
  | .w64, len, data => .dec64 len data

/-- The instruction of a request, or why its CTRL is reserved, with the checks in the order of 30_encoding.md R39. -/
def decode (r : Request) : Except Reserved Instr :=
  if ctrlRsv1 r.ctrl ≠ 0#8 then .error .rsv1
  else if ctrlRsv0 r.ctrl = true then .error .rsv0
  else if ctrlDir r.ctrl = false then
    if ctrlLen r.ctrl = 0#4 then .ok (encInstr (Width.ofCode (ctrlWidth r.ctrl)) r.data)
    else .error .encodeLen
  else if (ctrlLen r.ctrl).toNat ≤ (Width.ofCode (ctrlWidth r.ctrl)).bytes then
    .ok (decInstr (Width.ofCode (ctrlWidth r.ctrl)) (ctrlLen r.ctrl) r.data)
  else .error .decodeLen

/-! ### Encoding -/

/-- The CTRL word of a decode of width `w` with LEN = `len`: 0x0004 | WIDTH(w) | (L << 4) (30_encoding.md R47). -/
def decCtrl (w : Width) (len : BitVec 4) : Ctrl :=
  0x0004#16 ||| w.code.setWidth 16 ||| (len.setWidth 16 <<< 4)

/-- The request of an instruction, from the patterns of 30_encoding.md R43. -/
def encode : Instr → Request
  | .enc8 data      => ⟨0x0000#16, data⟩
  | .enc16 data     => ⟨0x0001#16, data⟩
  | .enc32 data     => ⟨0x0002#16, data⟩
  | .enc64 data     => ⟨0x0003#16, data⟩
  | .dec8 len data  => ⟨decCtrl .w8 len, data⟩
  | .dec16 len data => ⟨decCtrl .w16 len, data⟩
  | .dec32 len data => ⟨decCtrl .w32 len, data⟩
  | .dec64 len data => ⟨decCtrl .w64 len, data⟩

/-! ### The opcode map as data -/

/-- One row of the opcode map (30_encoding.md R43): the pattern under a mask, and the largest LEN. -/
structure OpcodeRow where
  mnemonic : String
  pattern : Ctrl
  mask : Ctrl
  maxLen : Nat
  deriving DecidableEq, Repr

/-- The table of 30_encoding.md R43, row by row. -/
def opcodeTable : List OpcodeRow :=
  [⟨"ENC8",  0x0000#16, 0xFFFF#16, 0⟩,
   ⟨"ENC16", 0x0001#16, 0xFFFF#16, 0⟩,
   ⟨"ENC32", 0x0002#16, 0xFFFF#16, 0⟩,
   ⟨"ENC64", 0x0003#16, 0xFFFF#16, 0⟩,
   ⟨"DEC8",  0x0004#16, 0xFF0F#16, 1⟩,
   ⟨"DEC16", 0x0005#16, 0xFF0F#16, 2⟩,
   ⟨"DEC32", 0x0006#16, 0xFF0F#16, 4⟩,
   ⟨"DEC64", 0x0007#16, 0xFF0F#16, 8⟩]

/-- A row matches a CTRL word: `CTRL & mask == match` and its LEN constraint (30_encoding.md R43). -/
def OpcodeRow.accepts (row : OpcodeRow) (c : Ctrl) : Bool :=
  c &&& row.mask == row.pattern && decide ((ctrlLen c).toNat ≤ row.maxLen)

/-- The 23 legal CTRL values, as 30_encoding.md R43 lists them. -/
def legalCtrls : List Ctrl :=
  [0x0000#16, 0x0001#16, 0x0002#16, 0x0003#16,
   0x0004#16, 0x0014#16,
   0x0005#16, 0x0015#16, 0x0025#16] ++
  [0x0006#16, 0x0016#16, 0x0026#16, 0x0036#16, 0x0046#16] ++
  [0x0007#16, 0x0017#16, 0x0027#16, 0x0037#16, 0x0047#16, 0x0057#16, 0x0067#16, 0x0077#16, 0x0087#16]

/-! ### The opcode table's own numbering of bits -/

/-- The request whose low `nbits` bits are `w`, all higher bits zero: CTRL is bits 15..0 and DATA is bits 79..16 (log 10). -/
def requestOfBits (nbits w : Nat) : Request :=
  ⟨BitVec.ofNat 16 (w % 2 ^ nbits), BitVec.ofNat 64 (w % 2 ^ nbits / 2 ^ 16)⟩

/-- The instruction the decoder reads from a table word (a request is at most 80 bits long, 30_encoding.md R34, R46). -/
def decodeTableWord (nbits w : Nat) : Option Instr :=
  match decode (requestOfBits nbits w) with
  | .ok i => some i
  | .error _ => none

end Sys2Proof
end

