-- ==== Sys2Proof/Config.lean ====
section
/-!
DEFINITION. What one implementation fixes and the spec leaves OPEN (00_scope.md R7, 93 I5, I6), and the free value
of RESULT (93 I4). The opaque constants have no body: no proof can see their value.
-/

namespace Sys2Proof

/-- `RESET_KIND` (00_scope.md R7, 92 D15, OPEN): the polarity of RST and whether reset is synchronous. -/
structure ResetKind where
  /-- RST asserts reset at level 1 (`true`) or at level 0 (`false`). -/
  activeHigh : Bool
  /-- Reset is seen at clock edges only (`true`), or at once (`false`). -/
  synchronous : Bool
  deriving DecidableEq, Repr, Inhabited

/-- The parameters "the model takes as arguments" (00_scope.md R7): fixed for one machine, open in the spec. -/
structure Params where
  /-- `LATENCY`: clock edges from request to response; 0 means combinational (70_reset_and_hazards.md R83, R84). -/
  latency : Nat
  /-- `RESET_KIND` (70_reset_and_hazards.md R81). -/
  resetKind : ResetKind
  deriving DecidableEq, Repr, Inhabited

/-- `LATENCY` of the implementation at hand: an open natural number (93 I5; log 2). -/
opaque Config.latency : Nat

/-- `RESET_KIND` of the implementation at hand: open (93 I6; log 2). -/
opaque Config.resetKind : ResetKind

/-- FREE VALUE. What RESULT holds while it holds no response: "any value" (93 I4; log 5). The argument is the
counter `State.draws`, so two such cycles may show different values. -/
opaque Config.freeResult : Nat → Word

end Sys2Proof
end

