-- ==== Sys2Proof/Machine/State.lean ====
section
/-!
DEFINITION. The state of the machine as plain data. The block has no architectural state (10_state.md R12 to R18, 20_memory.md
R21): what stands here is its interface signals (R15), its hidden in-flight queue (R19), its open parameters (00_scope.md R7),
and the model's own fields `upcoming`, `observed` and `draws`, which INVENTORY.md marks as such.
-/

namespace Sys2Proof.Machine

/-- The inputs of the block as the requester drives them for one step (10_state.md R15). -/
structure Pins where
  /-- CTRL, the request control word. -/
  ctrl : Ctrl
  /-- DATA, the request data word. -/
  data : Word
  /-- REQ_VALID: CTRL and DATA hold a request this cycle (used only when `LATENCY` ≥ 1). -/
  reqValid : Bool
  /-- RST is asserted at this edge, whatever its polarity (log 7; used only when `LATENCY` ≥ 1). -/
  rst : Bool
  /-- RST was asserted at some moment strictly between the last edge and this one (log 7). -/
  rstPulse : Bool
  deriving DecidableEq, Repr

/-- A pending response of the in-flight queue (10_state.md R19): the whole response word, computed when the request was
accepted (log 13), and the number of clock edges until it is presented. -/
structure Pending where
  word : Word
  wait : Nat
  deriving DecidableEq, Repr

/-- The machine's state. -/
structure State where
  /-- `LATENCY` and `RESET_KIND` (00_scope.md R7): no step changes them (log 2). -/
  params : Params
  /-- What the requester drives for the coming step (10_state.md R15). -/
  pins : Pins
  /-- What the requester drives for the steps after that, in order: the model's own field (log 3). -/
  upcoming : List Pins
  /-- The requests in flight, oldest first (10_state.md R19). -/
  inFlight : List Pending
  /-- The output RESULT (10_state.md R15). -/
  result : Word
  /-- The output RESP_VALID (10_state.md R15; with `LATENCY` = 0 the model's mark, log 6). -/
  respValid : Bool
  /-- The responses presented so far, in order (70_reset_and_hazards.md R86): the model's own field (log 8). -/
  observed : List Word
  /-- The counter of the free values of RESULT: the model's own field (log 5). -/
  draws : Nat
  deriving DecidableEq, Repr

/-- The inputs with no request and no reset, as State.reset holds them (log 4). -/
def Pins.quiet : Pins :=
  { ctrl := 0#16, data := 0#64, reqValid := false, rst := false, rstPulse := false }

/-- The machine right after reset is released (10_state.md R20, 70_reset_and_hazards.md R81): nothing in flight and RESP_VALID
= 0, as the spec says; RESULT is unspecified, so a free value (log 5); the parameters are those of the implementation (log 2);
the inputs have no reset value in the spec, and log 4 names the model's. -/
def State.reset : State :=
  { params := { latency := Config.latency, resetKind := Config.resetKind }
    pins := Pins.quiet
    upcoming := []
    inFlight := []
    result := Config.freeResult 0
    respValid := false
    observed := []
    draws := 1 }

/-- The reasons the machine stops with a fault: NONE. "No well-formed request raises an exception, a trap, an error code or any
failure signal" (60_exceptions.md R72), and the block raises nothing for any other request (R73). So the type has no
constructor (log 12). -/
inductive Fault where
  deriving DecidableEq, Repr

/-- The reasons a request has no meaning in the model. -/
inductive Refusal where
  /-- An instruction the model gives no meaning yet. Raised by no arm of this model. Safe. -/
  | notModelled (mnemonic : String)
  /-- `refuse(ReservedEncoding)` (30_encoding.md R39, 60_exceptions.md R73): the request is not well formed. Raised by
  the step when the decoder rejects the request, and by a decode whose LEN exceeds n. Safe: nothing can be proved of a run
  that holds such a request (log 9). -/
  | reservedEncoding (why : Reserved)
  deriving DecidableEq, Repr

end Sys2Proof.Machine
end

