-- ==== Sys2Proof/Machine/Ops.lean ====
section
/-!
DEFINITION. The named operations over the state: handing a response to the in-flight queue, ageing the queue, presenting a
response, reset, driving the inputs, and fetching the presented request (10_state.md R19, 70_reset_and_hazards.md R81, R83,
R84). There is no operation that takes an exception or returns from one: the block has none (60_exceptions.md R72, R76).
-/

namespace Sys2Proof.Machine

/-- The level on the RST wire that a kind of reset shows when it is asserted or not (70_reset_and_hazards.md R81). -/
def resetLevel (k : ResetKind) (asserted : Bool) : Bool := asserted == k.activeHigh

/-- The level on the RST wire: the second view of `pins.rst`, by `RESET_KIND`'s polarity (log 7). -/
def State.rstLevel (s : State) : Bool := resetLevel s.params.resetKind s.pins.rst

/-- The request on the inputs. -/
def State.request (s : State) : Request := ⟨s.pins.ctrl, s.pins.data⟩

/-- Reset acts at this edge. With `LATENCY` = 0 the block has no reset input (70_reset_and_hazards.md R81). -/
def State.resetAtEdge (s : State) : Bool := s.pins.rst && s.params.latency != 0

/-- An asynchronous reset acted between the last edge and this one (`RESET_KIND`, 70_reset_and_hazards.md R81; log 7). -/
def State.resetBetween (s : State) : Bool :=
  s.pins.rstPulse && !s.params.resetKind.synchronous && s.params.latency != 0

/-- The block takes the request on its inputs in this step (70_reset_and_hazards.md R83): with `LATENCY` ≥ 1 when REQ_VALID = 1
and reset is not asserted; with `LATENCY` = 0 always, the signals REQ_VALID and RST being absent (10_state.md R15; log 6). -/
def State.accepting (s : State) : Bool :=
  (s.pins.reqValid || s.params.latency == 0) && !s.resetAtEdge

/-- `RESULT <- v` (00_scope.md R11): hand the whole response of an accepted request to the queue, to be presented `LATENCY`
edges from now (70_reset_and_hazards.md R84). -/
def State.respond (s : State) (v : Word) : State :=
  { s with inFlight := s.inFlight ++ [{ word := v, wait := s.params.latency }] }

/-- Discard every request in flight (70_reset_and_hazards.md R81). -/
def State.discard (s : State) : State := { s with inFlight := [] }

/-- One clock edge brings every pending response one edge nearer (70_reset_and_hazards.md R84). -/
def State.age (s : State) : State :=
  { s with inFlight := s.inFlight.map fun p => { p with wait := p.wait - 1 } }

/-- No response is due: RESP_VALID = 0 (70_reset_and_hazards.md R84) and RESULT is any value (93 I4), a free value drawn with
the counter (log 5). -/
def State.showNothing (s : State) : State :=
  { s with result := Config.freeResult s.draws, respValid := false, draws := s.draws + 1 }

/-- Present the oldest response if it is due, whole and with RESP_VALID = 1 (70_reset_and_hazards.md R84), and note it in the
observation (R86); otherwise show nothing. -/
def State.present (s : State) : State :=
  match s.inFlight with
  | ⟨v, 0⟩ :: later =>
    { s with inFlight := later, result := v, respValid := true, observed := s.observed ++ [v] }
  | _ => s.showNothing

/-- The requester moves on to what it drives next. At the end of the list it keeps CTRL and DATA and presents no request and
no reset (log 3). -/
def State.driveNext (s : State) : State :=
  match s.upcoming with
  | [] => { s with pins := { s.pins with reqValid := false, rst := false, rstPulse := false } }
  | p :: later => { s with pins := p, upcoming := later }

/-- What a step does before the request is run: an asynchronous reset since the last edge has emptied the queue, and what is
still in flight comes one edge nearer. -/
def State.beginEdge (s : State) : State :=
  if s.resetBetween then s.discard else s.age

/-- What a step does after the request is run: the outputs change, and the requester moves on. -/
def State.endEdge (s : State) : State := s.present.driveNext

/-- An edge with reset asserted: everything in flight is discarded and RESP_VALID is 0 (70_reset_and_hazards.md R81). -/
def State.resetEdge (s : State) : State := s.discard.showNothing.driveNext

/-- The instruction the block is presented with, or why its CTRL is reserved. -/
def State.fetch (s : State) : Except Reserved Instr := decode s.request

/-- Present a request at the inputs, so that the next step takes it: CTRL and DATA hold it, REQ_VALID = 1 and RST is not
asserted (70_reset_and_hazards.md R83). -/
def State.presentRequest (s : State) (r : Request) : State :=
  { s with pins := { s.pins with ctrl := r.ctrl, data := r.data, reqValid := true, rst := false } }

/-- Go on from a next state; a fault or a refusal stays as it is. -/
def andThen (o : Host.Outcome State Fault Refusal) (f : State → State) : Host.Outcome State Fault Refusal :=
  match o with
  | .next s => .next (f s)
  | .fault r => .fault r
  | .refused r => .refused r

end Sys2Proof.Machine
end

