-- ==== Sys2Proof/Machine/Decoder.lean ====
section
/-!
DEFINITION. The decoder: padding (41_decode.md R59), the digit-reassembly unit (R62), the invalid-nibble policy (R64), the
generic operation `dec_w` (R66) and the four operations DEC8 to DEC64 (R68 to R71).
-/

namespace Sys2Proof.Machine

/-- `pad_n(B)`: right-aligned, left-padded with zero bytes to n bytes (41_decode.md R59). -/
def padBytes (n : Nat) (B : List Byte) : List Byte := List.replicate (n - B.length) 0#8 ++ B

/-- `reassemble(P)`: Σ h_i·10^(2(n−1−i)+1) + l_i·10^(2(n−1−i)) (41_decode.md R62). -/
def reassemble (P : List Byte) : Nat :=
  ((List.range P.length).map fun i =>
    hiNibble (P.getD i 0#8) * 10 ^ (2 * (P.length - 1 - i) + 1) +
      loNibble (P.getD i 0#8) * 10 ^ (2 * (P.length - 1 - i))).sum

/-- `dec_w(B)`: 0 if any nibble is invalid, else the reassembled value (41_decode.md R64, R66). -/
def decValue (w : Width) (B : List Byte) : Nat :=
  if validBytes (padBytes w.bytes B) then reassemble (padBytes w.bytes B) else 0

/-- The response of a decode with LEN = L (41_decode.md §5, the shared execution). -/
def decResponse (w : Width) (L : Nat) (data : Word) : Word :=
  wordOfValue (decValue w (decodeOperand L data))

/-- The shared execution of a decode (41_decode.md §5): LEN > n is refused (R75: well-formedness first), else it responds. -/
def decodeOp (w : Width) (len : BitVec 4) (data : Word) (s : State) : Host.Outcome State Fault Refusal :=
  if len.toNat ≤ w.bytes then .next (s.respond (decResponse w len.toNat data))
  else .refused (.reservedEncoding .decodeLen)

/-- DEC8 (41_decode.md R68). -/
def execDec8 (len : BitVec 4) (data : Word) (s : State) : Host.Outcome State Fault Refusal :=
  decodeOp .w8 len data s

/-- DEC16 (41_decode.md R69). -/
def execDec16 (len : BitVec 4) (data : Word) (s : State) : Host.Outcome State Fault Refusal :=
  decodeOp .w16 len data s

/-- DEC32 (41_decode.md R70). -/
def execDec32 (len : BitVec 4) (data : Word) (s : State) : Host.Outcome State Fault Refusal :=
  decodeOp .w32 len data s

/-- DEC64 (41_decode.md R71). -/
def execDec64 (len : BitVec 4) (data : Word) (s : State) : Host.Outcome State Fault Refusal :=
  decodeOp .w64 len data s

end Sys2Proof.Machine
end

