-- ==== Sys2Proof/Machine/Encoder.lean ====
section
/-!
DEFINITION. The encoder: the digit-extraction unit (40_encode.md R48), packing (R51), the generic operation `enc_w` (R53) and
the four operations ENC8 to ENC64 (R55 to R58).
-/

namespace Sys2Proof.Machine

/-- `extract_digits(V, k)`: k digits, units first, by repeated division by 10; the final quotient is discarded
(40_encode.md R48, R52). -/
def extractDigits (V : Nat) : Nat → List Nat
  | 0 => []
  | k + 1 => V % 10 :: extractDigits (V / 10) k

/-- Packing (40_encode.md R51): P[i] = {d[2(n−1−i)+1], d[2(n−1−i)]}, most significant byte first. -/
def packDigits (n : Nat) (d : List Nat) : List Byte :=
  (List.range n).map fun i =>
    packPair (d.getD (2 * (n - 1 - i) + 1) 0) (d.getD (2 * (n - 1 - i)) 0)

/-- `enc_w(V)`: the n packed bytes (40_encode.md R53). -/
def encBytes (w : Width) (V : Nat) : List Byte := packDigits w.bytes (extractDigits V w.digits)

/-- The response of an encode (40_encode.md §3, the shared execution). -/
def encResponse (w : Width) (data : Word) : Word := wordOfBytes (encBytes w (encodeOperand w data))

/-- ENC8 (40_encode.md R55). -/
def execEnc8 (data : Word) (s : State) : Host.Outcome State Fault Refusal :=
  .next (s.respond (encResponse .w8 data))

/-- ENC16 (40_encode.md R56). -/
def execEnc16 (data : Word) (s : State) : Host.Outcome State Fault Refusal :=
  .next (s.respond (encResponse .w16 data))

/-- ENC32 (40_encode.md R57). -/
def execEnc32 (data : Word) (s : State) : Host.Outcome State Fault Refusal :=
  .next (s.respond (encResponse .w32 data))

/-- ENC64 (40_encode.md R58). -/
def execEnc64 (data : Word) (s : State) : Host.Outcome State Fault Refusal :=
  .next (s.respond (encResponse .w64 data))

end Sys2Proof.Machine
end

