-- ==== Sys2Proof/Machine/Dispatch.lean ====
section
/-!
DEFINITION. One arm per operation of the opcode map (30_encoding.md R43), each a direct call of its meaning.
-/

namespace Sys2Proof.Machine

def exec (i : Instr) (s : State) : Host.Outcome State Fault Refusal :=
  match i with
  | .enc8 data => Sys2Proof.Machine.execEnc8 data s
  | .enc16 data => Sys2Proof.Machine.execEnc16 data s
  | .enc32 data => Sys2Proof.Machine.execEnc32 data s
  | .enc64 data => Sys2Proof.Machine.execEnc64 data s
  | .dec8 len data => Sys2Proof.Machine.execDec8 len data s
  | .dec16 len data => Sys2Proof.Machine.execDec16 len data s
  | .dec32 len data => Sys2Proof.Machine.execDec32 len data s
  | .dec64 len data => Sys2Proof.Machine.execDec64 len data s

end Sys2Proof.Machine
end

