-- ==== Sys2Proof/Machine/Cycle.lean ====
section
/-!
DEFINITION. One step of the block: one rising edge of CLK when `LATENCY` ≥ 1, one presentation of CTRL and DATA when
`LATENCY` = 0 (70_reset_and_hazards.md R83, R84; log 1).
-/

namespace Sys2Proof.Machine

/-- Run the request on the inputs: a reserved CTRL is refused before anything else (60_exceptions.md R75), and any other runs,
between what every edge does first and last. -/
def runRequest (s : State) : Host.Outcome State Fault Refusal :=
  match s.fetch with
  | .error why => .refused (.reservedEncoding why)
  | .ok i => andThen (exec i s.beginEdge) State.endEdge

/-- One step. Reset at the edge takes precedence: the block accepts nothing then (70_reset_and_hazards.md R81, R83). -/
def cycle (s : State) : Host.Outcome State Fault Refusal :=
  if s.resetAtEdge then .next s.resetEdge
  else if s.accepting then runRequest s
  else .next s.beginEdge.endEdge

end Sys2Proof.Machine
end

