-- ==== Sys2Proof/Machine/Step.lean ====
section
/-!
DEFINITION. The step of the machine, and the state in which a table word is the request the next step runs.
-/

namespace Sys2Proof.Machine

/-- One step of the machine. -/
def step (s : State) : Host.Outcome State Fault Refusal := cycle s

/-- `s` with the request of a table word presented at the inputs, where the next step takes its request from (log 11). -/
def State.withFetchWord (s : State) (nbits w : Nat) : State := s.presentRequest (requestOfBits nbits w)

end Sys2Proof.Machine
end

