-- ==== Sys2Proof/Machine/Assembler.lean ====
section
/-!
DEFINITION. The request syntax of 30_encoding.md R47: reading a line of text, assembling it into a request, and writing the
response. What the rule leaves to a reader of text (blanks, letter case, the number of hex digits) is log 15.
-/

namespace Sys2Proof

/-! ### Assembly -/

/-- Σ b_i << 8(L−1−i), the DATA word of a byte list (30_encoding.md R47). -/
def asmData (bytes : List Byte) : Word :=
  BitVec.ofNat 64 (((List.range bytes.length).map fun i =>
    (bytes.getD i 0#8).toNat <<< (8 * (bytes.length - 1 - i))).sum)

/-- Assembly of a line into a request; a value ≥ 2^w and a byte list longer than w/8 are rejected (30_encoding.md R47). -/
def assemble : AsmLine → Option Request
  | .enc w value =>
    if value < 2 ^ w.bits then some ⟨w.code.setWidth 16, BitVec.ofNat 64 value⟩ else none
  | .dec w bytes =>
    if bytes.length ≤ w.bytes then some ⟨decCtrl w (BitVec.ofNat 4 bytes.length), asmData bytes⟩ else none

/-! ### Reading a line of text -/

/-- The value of a digit character in a base of at most 16. -/
def digitValue (base : Nat) (c : Char) : Option Nat :=
  let v :=
    if '0' ≤ c ∧ c ≤ '9' then c.toNat - '0'.toNat
    else if 'a' ≤ c ∧ c ≤ 'f' then c.toNat - 'a'.toNat + 10
    else if 'A' ≤ c ∧ c ≤ 'F' then c.toNat - 'A'.toNat + 10
    else 16
  if v < base then some v else none

/-- A nonempty sequence of digits, most significant first. -/
def digitsValue (base : Nat) : List Char → Option Nat
  | [] => none
  | cs => cs.foldl (fun acc c =>
      match acc, digitValue base c with
      | some n, some v => some (n * base + v)
      | _, _ => none) (some 0)

/-- A value, "decimal or 0x-hex" (30_encoding.md R47). -/
def readValue : List Char → Option Nat
  | '0' :: 'x' :: cs => digitsValue 16 cs
  | cs => digitsValue 10 cs

/-- The token of a run of letters and digits: a value if it begins with a digit, else a name. -/
def wordToken : List Char → Option (List AsmToken)
  | [] => some []
  | c :: cs =>
    if '0' ≤ c ∧ c ≤ '9' then
      match readValue (c :: cs) with
      | some n => some [.value n]
      | none => none
    else some [.name (c :: cs)]

/-- Punctuation; a blank separates and is no token. -/
def punctuation : Char → Option (List AsmToken)
  | ',' => some [.comma]
  | '[' => some [.openList]
  | ']' => some [.closeList]
  | '(' => some [.openArgs]
  | ')' => some [.closeArgs]
  | ' ' => some []
  | _   => none

/-- The tokens of a line, up to its comment (`;`); `word` is the run of letters and digits read so far. -/
def tokens (word : List Char) : List Char → Option (List AsmToken)
  | [] => wordToken word
  | c :: cs =>
    if c = ';' then wordToken word
    else if c.isAlphanum then tokens (word ++ [c]) cs
    else
      match wordToken word, punctuation c, tokens [] cs with
      | some before, some mark, some after => some (before ++ mark ++ after)
      | _, _, _ => none

/-- The bytes of a list after its opening bracket, and what follows its closing one. -/
def readBytes : List AsmToken → Option (List Byte × List AsmToken)
  | .value n :: .closeList :: rest => if n < 256 then some ([BitVec.ofNat 8 n], rest) else none
  | .value n :: .comma :: rest =>
    if n < 256 then
      match readBytes rest with
      | some (bytes, after) => some (BitVec.ofNat 8 n :: bytes, after)
      | none => none
    else none
  | _ => none

/-- A whole byte list; `[]` is the empty one (30_encoding.md R47). -/
def readByteList : List AsmToken → Option (List Byte × List AsmToken)
  | .openList :: .closeList :: rest => some ([], rest)
  | .openList :: rest => readBytes rest
  | _ => none

/-- The name of a width's operation under a prefix: `ENC8`, `FromUint8`, …. -/
def widthOfName (start name : List Char) : Option Width :=
  if name = start ++ ['8'] then some .w8
  else if name = start ++ ['1', '6'] then some .w16
  else if name = start ++ ['3', '2'] then some .w32
  else if name = start ++ ['6', '4'] then some .w64
  else none

/-- A line from its tokens: `ENC<w> v`, `DEC<w> [b0, …]`, and the source's call forms `FromUint<w>(v)` and
`ToUint<w>([b0, …])` (30_encoding.md R47). -/
def lineOfTokens : List AsmToken → Option AsmLine
  | [.name m, .value v] =>
    match widthOfName ['E', 'N', 'C'] m with
    | some w => some (.enc w v)
    | none => none
  | [.name m, .openArgs, .value v, .closeArgs] =>
    match widthOfName ['F', 'r', 'o', 'm', 'U', 'i', 'n', 't'] m with
    | some w => some (.enc w v)
    | none => none
  | .name m :: .openArgs :: rest =>
    match widthOfName ['T', 'o', 'U', 'i', 'n', 't'] m, readByteList rest with
    | some w, some (bytes, [.closeArgs]) => some (.dec w bytes)
    | _, _ => none
  | .name m :: rest =>
    match widthOfName ['D', 'E', 'C'] m, readByteList rest with
    | some w, some (bytes, []) => some (.dec w bytes)
    | _, _ => none
  | _ => none

/-- A line of text as a line of the syntax. -/
def readLine (text : List Char) : Option AsmLine :=
  match tokens [] text with
  | some ts => lineOfTokens ts
  | none => none

/-- A line of text as a request. -/
def assembleText (text : List Char) : Option Request :=
  match readLine text with
  | some line => assemble line
  | none => none

/-! ### Writing a response -/

/-- The character of a hex digit. -/
def digitChar (v : Nat) : Char := if v < 10 then Char.ofNat ('0'.toNat + v) else Char.ofNat ('A'.toNat + v - 10)

/-- The `k` low digits of a value in a base, most significant first. -/
def writeDigits (base : Nat) : Nat → Nat → List Char
  | 0, _ => []
  | k + 1, v => writeDigits base k (v / base) ++ [digitChar (v % base)]

/-- RESULT as text: 0x-hex for an encode, decimal for a decode (30_encoding.md R47). -/
def writeResult (line : AsmLine) (result : Word) : List Char :=
  match line with
  | .enc _ _ => '0' :: 'x' :: writeDigits 16 16 result.toNat
  | .dec _ _ =>
    match (writeDigits 10 20 result.toNat).dropWhile (· = '0') with
    | [] => ['0']
    | digits => digits

end Sys2Proof
end

