-- ==== Sys2Proof/Safety.lean ====
section
/-!
DEFINITION. The terms claims are stated in: the spec's closed forms of what an operation answers (written apart from the meanings),
the invariants of the in-flight queue and of the outputs, and runs (70_reset_and_hazards.md R86).
-/

namespace Sys2Proof.Machine

/-! ### The closed forms of the spec -/

/-- Decimal digit j of V: `(V div 10^j) mod 10` (40_encode.md R48). -/
def decimalDigit (V j : Nat) : Nat := V / 10 ^ j % 10

/-- The nibble of weight 16^j of a word, bits [4j+3 : 4j] (40_encode.md R53). -/
def nibbleAt (x : Word) (j : Nat) : Nat := x.toNat / 16 ^ j % 16

/-- Nibble j of a decode's padded input: DATA's lanes L..7 count as zero (41_decode.md R59). -/
def paddedNibble (L : Nat) (x : Word) (j : Nat) : Nat := if j < 2 * L then nibbleAt x j else 0

/-- `Σ d[j]·16^j` over the k digits of V = DATA[w-1:0] (40_encode.md R53, 30_encoding.md R40). -/
def encodedNumber (w : Width) (x : Word) : Nat :=
  ((List.range w.digits).map fun j => decimalDigit (x.toNat % 2 ^ w.bits) j * 16 ^ j).sum

/-- 0 if any nibble of the lanes below L is invalid, else `Σ e[j]·10^j` over the k padded nibbles (41_decode.md R62, R64). -/
def decodedNumber (w : Width) (L : Nat) (x : Word) : Nat :=
  if ∀ j < 2 * L, nibbleAt x j ≤ 9 then
    ((List.range w.digits).map fun j => paddedNibble L x j * 10 ^ j).sum
  else 0

/-- r_j of 70_reset_and_hazards.md R86: the response word to a well-formed request, in the spec's closed forms. -/
def expectedResponse (r : Request) : Word :=
  if ctrlDir r.ctrl then
    BitVec.ofNat 64 (decodedNumber (Width.ofCode (ctrlWidth r.ctrl)) (ctrlLen r.ctrl).toNat r.data)
  else BitVec.ofNat 64 (encodedNumber (Width.ofCode (ctrlWidth r.ctrl)) r.data)

/-! ### What an operation does to the state -/

/-- In every state, `i` completes, hands the response `v` to the queue, to be presented `LATENCY` edges later, and changes
nothing else: no other field, no flag (there is none), no other pending response. -/
def Responds (i : Instr) (v : Word) : Prop :=
  ∀ s : State, exec i s =
    .next { s with inFlight := s.inFlight ++ [{ word := v, wait := s.params.latency }] }

/-- A step that takes a request whose CTRL is not well formed is refused (30_encoding.md R39). -/
def RefusesReserved : Prop :=
  ∀ s : State, s.accepting = true → wfCtrl s.pins.ctrl = false →
    ∃ why, step s = .refused (.reservedEncoding why)

/-! ### Invariants -/

/-- The in-flight queue as 10_state.md R19 and 70_reset_and_hazards.md R84 have it: every pending response is 1 to `LATENCY`
edges away, and an older one is nearer than a younger one. -/
structure State.PipelineOk (s : State) : Prop where
  bounds : ∀ p ∈ s.inFlight, 1 ≤ p.wait ∧ p.wait ≤ s.params.latency
  ordered : s.inFlight.Pairwise fun p q => p.wait < q.wait

/-- While RESP_VALID = 1, RESULT is the last response of the observation (70_reset_and_hazards.md R84). -/
def State.ShownOk (s : State) : Prop := s.respValid = true → s.observed.getLast? = some s.result

/-! ### Runs -/

/-- The request on a set of inputs. -/
def Pins.request (p : Pins) : Request := ⟨p.ctrl, p.data⟩

/-- No reset around this edge. -/
def Pins.noReset (p : Pins) : Prop := p.rst = false ∧ p.rstPulse = false

/-- With no reset, these inputs hold a request the block takes (70_reset_and_hazards.md R83). -/
def takes (c : Params) (p : Pins) : Bool := p.reqValid || c.latency == 0

/-- `s` with the requester driving the inputs `ps`, one set for each coming step, and nothing after them. -/
def State.driving (s : State) (ps : List Pins) : State :=
  { s with pins := ps.headD Pins.quiet, upcoming := ps.tail }

/-- The responses R86 lists for the requests the block takes among `ps`, in order. -/
def observation (c : Params) (ps : List Pins) : List Word :=
  (ps.filter (takes c)).map fun p => expectedResponse p.request

/-- `k` steps of the machine, stopping at the first stop. -/
def steps (k : Nat) (s : State) : Host.Outcome State Fault Refusal := Host.Core.run Sys2Proof.core k s

end Sys2Proof.Machine
end

