-- ==== Sys2Proof/Certificates/Slice0/Obligations.lean ====
section
/-!
DEFINITION. The statements for the provers. Each docstring names the rule of spec/ it formalises; a clause that is the model's
own choice names its log entry.
-/

open Sys2Proof Sys2Proof.Machine

/-! ### Encoding -/

/-- Words of 30_encoding.md R43 and 95_test_vectors.md §2.2, §2.3, one of each operation and of each kind of refusal. -/
def Obligations.SampleRequestsDecode : Prop :=
  ∀ data : Word,
    decode ⟨0x0000#16, data⟩ = .ok (.enc8 data) ∧
    decode ⟨0x0001#16, data⟩ = .ok (.enc16 data) ∧
    decode ⟨0x0002#16, data⟩ = .ok (.enc32 data) ∧
    decode ⟨0x0003#16, data⟩ = .ok (.enc64 data) ∧
    decode ⟨0x0014#16, data⟩ = .ok (.dec8 1#4 data) ∧
    decode ⟨0x0015#16, data⟩ = .ok (.dec16 1#4 data) ∧
    decode ⟨0x0036#16, data⟩ = .ok (.dec32 3#4 data) ∧
    decode ⟨0x0087#16, data⟩ = .ok (.dec64 8#4 data) ∧
    decode ⟨0x0010#16, data⟩ = .error .encodeLen ∧
    decode ⟨0x0008#16, data⟩ = .error .rsv0 ∧
    decode ⟨0x8003#16, data⟩ = .error .rsv1 ∧
    decode ⟨0x0024#16, data⟩ = .error .decodeLen

/-- Decoding the encoding of a well-formed instruction gives it back, every operand at every value (30_encoding.md R43, R47). -/
def Obligations.DecodeOfEncode : Prop :=
  ∀ i : Instr, i.wellFormed = true → decode (encode i) = .ok i

/-- A request that decodes is the encoding of a well-formed instruction: each request has one meaning (30_encoding.md R43). -/
def Obligations.EncodeOfDecode : Prop :=
  ∀ (r : Request) (i : Instr), decode r = .ok i → i.wellFormed = true ∧ encode i = r

/-- 30_encoding.md R39: the block runs exactly the well-formed requests, whatever DATA is, and refuses every other as a reserved
encoding. -/
def Obligations.RunsExactlyTheWellFormed : Prop :=
  ∀ s : State, s.accepting = true →
    (wfCtrl s.pins.ctrl = true → ∃ t, step s = .next t) ∧
    (wfCtrl s.pins.ctrl = false → ∃ why, step s = .refused (.reservedEncoding why))

/-- 30_encoding.md R43: exactly one row of the opcode map matches a well-formed CTRL, it is the row of the operation the decoder
reads, no row matches another CTRL, and the well-formed values are the 23 listed. -/
def Obligations.OpcodeMapDecides : Prop :=
  (∀ (c : Ctrl) (data : Word), wfCtrl c = true →
    ∃ row ∈ opcodeTable, row.accepts c = true ∧
      (∀ other ∈ opcodeTable, other.accepts c = true → other = row) ∧
      ∃ i, decode ⟨c, data⟩ = .ok i ∧ i.mnemonic = row.mnemonic) ∧
  (∀ c : Ctrl, wfCtrl c = false → ∀ row ∈ opcodeTable, row.accepts c = false) ∧
  (∀ c : Ctrl, wfCtrl c = true ↔ c ∈ legalCtrls) ∧
  legalCtrls.length = 23 ∧ legalCtrls.Nodup

/-- 30_encoding.md R38, R44: the three kinds of reserved CTRL, each refused under its own name. The names, and which one is
given when several apply (the first check of R39 that fails), are the model's choice (log 9). -/
def Obligations.ReservedKindsAreRefusedByName : Prop :=
  ∀ s : State, s.accepting = true →
    (ctrlRsv1 s.pins.ctrl ≠ 0#8 → step s = .refused (.reservedEncoding .rsv1)) ∧
    (ctrlRsv1 s.pins.ctrl = 0#8 → ctrlRsv0 s.pins.ctrl = true →
      step s = .refused (.reservedEncoding .rsv0)) ∧
    (ctrlRsv1 s.pins.ctrl = 0#8 → ctrlRsv0 s.pins.ctrl = false → ctrlDir s.pins.ctrl = false →
      ctrlLen s.pins.ctrl ≠ 0#4 → step s = .refused (.reservedEncoding .encodeLen)) ∧
    (ctrlRsv1 s.pins.ctrl = 0#8 → ctrlRsv0 s.pins.ctrl = false → ctrlDir s.pins.ctrl = true →
      2 ^ (ctrlWidth s.pins.ctrl).toNat < (ctrlLen s.pins.ctrl).toNat →
      step s = .refused (.reservedEncoding .decodeLen))

/-- An ill-formed term, a decode whose LEN exceeds n, is refused by exec itself (41_decode.md §5, 30_encoding.md R37). -/
def Obligations.IllFormedInstrIsRefused : Prop :=
  ∀ (i : Instr) (s : State), i.wellFormed = false →
    exec i s = .refused (.reservedEncoding .decodeLen)

/-- 30_encoding.md R47: a line of the request syntax with an operand in range assembles to the request of its operation, whose
operand is what the line names; one out of range is rejected. -/
def Obligations.AssembledLineDecodes : Prop :=
  (∀ (w : Width) (v : Nat), v < 2 ^ w.bits →
    ∃ r, assemble (.enc w v) = some r ∧ decode r = .ok (encInstr w r.data) ∧
      encodeOperand w r.data = v) ∧
  (∀ (w : Width) (v : Nat), 2 ^ w.bits ≤ v → assemble (.enc w v) = none) ∧
  (∀ (w : Width) (B : List Byte), B.length ≤ w.bytes →
    ∃ r len, assemble (.dec w B) = some r ∧ decode r = .ok (decInstr w len r.data) ∧
      len.toNat = B.length ∧ decodeOperand B.length r.data = B) ∧
  (∀ (w : Width) (B : List Byte), w.bytes < B.length → assemble (.dec w B) = none)

/-- The examples of 30_encoding.md R47 and its alias forms, read as text: each assembles to the request the rule gives, and a value
or a byte list out of range is rejected. -/
def Obligations.SampleLinesAssemble : Prop :=
  assembleText "ENC16 9999".toList = some ⟨0x0001#16, 0x000000000000270F#64⟩ ∧
  assembleText "FromUint16(9999)".toList = assembleText "ENC16 0x270F".toList ∧
  assembleText "DEC32 [0x99]".toList = some ⟨0x0016#16, 0x0000000000000099#64⟩ ∧
  assembleText "ToUint32([0x99])".toList = assembleText "DEC32 [153]".toList ∧
  assembleText "DEC8 []".toList = some ⟨0x0004#16, 0#64⟩ ∧
  assembleText "ENC8 256".toList = none ∧ assembleText "DEC8 [0x42, 0x00]".toList = none

/-- A response written as text (30_encoding.md R47: 0x-hex for an encode, decimal for a decode) reads back as the value of RESULT.
The number of hex digits is the model's choice (log 15). -/
def Obligations.WrittenResultReadsBack : Prop :=
  ∀ (line : AsmLine) (result : Word), readValue (writeResult line result) = some result.toNat

/-! ### Operands, lanes and results -/

/-- 20_memory.md R23: S[i] is in lane m−1−i, the word is the big-endian number of the sequence, and the two examples. -/
def Obligations.BytesLieInLanes : Prop :=
  (∀ (x : Word) (l : Nat), l ≤ 7 → (lane x l).toNat = x.toNat / 2 ^ (8 * l) % 256) ∧
  (∀ S : List Byte, S.length ≤ 8 →
    (∀ i < S.length, lane (wordOfBytes S) (S.length - 1 - i) = S.getD i 0#8) ∧
    (wordOfBytes S).toNat =
      ((List.range S.length).map fun i => (S.getD i 0#8).toNat * 256 ^ (S.length - 1 - i)).sum) ∧
  wordOfBytes (encBytes .w16 9999) = 0x9999#64 ∧ wordOfBytes [0x99#8] = 0x99#64

/-- 30_encoding.md R40: V = DATA[w-1:0], in range, and DATA[63:w] has no effect on an encode. -/
def Obligations.EncodeIgnoresHighData : Prop :=
  ∀ (w : Width) (data : Word),
    encodeOperand w data = data.toNat % 2 ^ w.bits ∧ encodeOperand w data ≤ 2 ^ w.bits - 1 ∧
    ∀ (data' : Word) (s : State), data.toNat % 2 ^ w.bits = data'.toNat % 2 ^ w.bits →
      exec (encInstr w data) s = exec (encInstr w data') s

/-- 30_encoding.md R41: B[i] is DATA's lane L−1−i; the lanes from L up have no effect, so with L = 0 no bit of DATA has one. -/
def Obligations.DecodeIgnoresHighLanes : Prop :=
  (∀ (L : Nat) (data : Word), (decodeOperand L data).length = L ∧
    ∀ i < L, ((decodeOperand L data).getD i 0#8).toNat =
      data.toNat / 2 ^ (8 * (L - 1 - i)) % 256) ∧
  (∀ (w : Width) (len : BitVec 4) (data data' : Word) (s : State),
    (∀ l < len.toNat, lane data l = lane data' l) →
      exec (decInstr w len data) s = exec (decInstr w len data') s) ∧
  (∀ (w : Width) (data data' : Word) (s : State),
    exec (decInstr w 0#4 data) s = exec (decInstr w 0#4 data') s)

/-- 30_encoding.md R42: an encode's n bytes are right-aligned in RESULT with zeros above; a decode's value is zero-extended, and
is at most 10^k − 1, below 2^w. -/
def Obligations.ResultIsAssembled : Prop :=
  (∀ (w : Width) (data : Word),
    (∀ i < w.bytes, lane (encResponse w data) (w.bytes - 1 - i) =
      (encBytes w (encodeOperand w data)).getD i 0#8) ∧
    (encResponse w data).toNat < 2 ^ (8 * w.bytes) ∧
    (encResponse w data).toNat = ((List.range w.bytes).map fun i =>
      ((encBytes w (encodeOperand w data)).getD i 0#8).toNat * 256 ^ (w.bytes - 1 - i)).sum ∧
    (encBytes w (encodeOperand w data)).length = w.bytes) ∧
  (∀ (w : Width) (L : Nat) (data : Word), L ≤ w.bytes →
    (decResponse w L data).toNat = decValue w (decodeOperand L data) ∧
    decValue w (decodeOperand L data) ≤ 10 ^ w.digits - 1 ∧ 10 ^ w.digits - 1 < 2 ^ w.bits) ∧
  (∀ (w : Width) (data : Word), Responds (encInstr w data) (encResponse w data)) ∧
  (∀ (w : Width) (len : BitVec 4) (data : Word), len.toNat ≤ w.bytes →
    Responds (decInstr w len data) (decResponse w len.toNat data))

/-! ### The encoder -/

/-- 40_encode.md R48: the unit gives exactly k digits, and d[j] = (V div 10^j) mod 10. -/
def Obligations.DigitsAreExtracted : Prop :=
  ∀ V k : Nat, (extractDigits V k).length = k ∧
    ∀ j < k, (extractDigits V k).getD j 0 = V / 10 ^ j % 10

/-- 40_encode.md R50: every extracted digit is at most 9, and so is every nibble the encoder writes. -/
def Obligations.EncoderDigitsAreValid : Prop :=
  (∀ V k : Nat, ∀ d ∈ extractDigits V k, d ≤ 9) ∧
  (∀ (w : Width) (V : Nat), ∀ b ∈ encBytes w V, hiNibble b ≤ 9 ∧ loNibble b ≤ 9)

/-- 40_encode.md R52: digits of weight 10^k and above are dropped, at every width, and nothing signals it: the operation leaves
the same state for V as for V mod 10^k. -/
def Obligations.HighDigitsAreDroppedSilently : Prop :=
  (∀ (w : Width) (V : Nat), encBytes w V = encBytes w (V % 10 ^ w.digits)) ∧
  (∀ (w : Width) (data data' : Word) (s : State),
    data'.toNat % 2 ^ w.bits = data.toNat % 2 ^ w.bits % 10 ^ w.digits →
      exec (encInstr w data') s = exec (encInstr w data) s)

/-- 40_encode.md R53: enc_w gives n bytes, P[i] is the digit pair of its position (the high nibble the higher digit), and as a
number RESULT is Σ P[i]·256^(n−1−i) = Σ d[j]·16^j. -/
def Obligations.EncodedBytesAndNumber : Prop :=
  ∀ (w : Width) (V : Nat), (encBytes w V).length = w.bytes ∧
    (∀ i < w.bytes,
      hiNibble ((encBytes w V).getD i 0#8) = decimalDigit V (2 * (w.bytes - 1 - i) + 1) ∧
      loNibble ((encBytes w V).getD i 0#8) = decimalDigit V (2 * (w.bytes - 1 - i))) ∧
    (wordOfBytes (encBytes w V)).toNat = ((List.range w.bytes).map fun i =>
      ((encBytes w V).getD i 0#8).toNat * 256 ^ (w.bytes - 1 - i)).sum ∧
    (wordOfBytes (encBytes w V)).toNat =
      ((List.range w.digits).map fun j => decimalDigit V j * 16 ^ j).sum

/-- 40_encode.md R54, (a) to (d): valid nibbles, zeros above, zero encodes to zeros, and enc_w is a bijection from [0, 10^k − 1]
onto the valid sequences of n bytes, with dec_w its inverse. -/
def Obligations.EncoderOutputProperties : Prop :=
  ∀ w : Width,
    (∀ (data : Word), ∀ j < 2 * w.bytes, nibbleAt (encResponse w data) j ≤ 9) ∧
    (∀ data : Word, (encResponse w data).toNat < 2 ^ (8 * w.bytes)) ∧
    encBytes w 0 = List.replicate w.bytes 0#8 ∧
    (∀ V < 10 ^ w.digits, (encBytes w V).length = w.bytes ∧ validBytes (encBytes w V) = true ∧
      decValue w (encBytes w V) = V) ∧
    (∀ P : List Byte, P.length = w.bytes → validBytes P = true →
      decValue w P < 10 ^ w.digits ∧ encBytes w (decValue w P) = P)

/-! ### The decoder -/

/-- 41_decode.md R59: the padded sequence by position, and its reading as DATA with the lanes from L up forced to zero. -/
def Obligations.PaddingByPosition : Prop :=
  (∀ (n : Nat) (B : List Byte), B.length ≤ n → (padBytes n B).length = n ∧
    (∀ i < n, (padBytes n B).getD i 0#8 =
      if i < n - B.length then 0#8 else B.getD (i - (n - B.length)) 0#8) ∧
    (B.length = n → padBytes n B = B)) ∧
  (∀ n : Nat, padBytes n [] = List.replicate n 0#8) ∧
  (∀ (n L : Nat) (data : Word), L ≤ n → ∀ i < n,
    (padBytes n (decodeOperand L data)).getD i 0#8 =
      if n - 1 - i < L then lane data (n - 1 - i) else 0#8)

/-- 41_decode.md R61: the padded input is valid exactly when each of its 2n nibbles is at most 9; padding bytes always pass, and
no ignored lane matters. -/
def Obligations.ValidityOfEveryNibble : Prop :=
  (∀ (n : Nat) (B : List Byte), B.length ≤ n →
    (validBytes (padBytes n B) = true ↔ ∀ i < n,
      hiNibble ((padBytes n B).getD i 0#8) ≤ 9 ∧ loNibble ((padBytes n B).getD i 0#8) ≤ 9) ∧
    validBytes (padBytes n B) = validBytes B) ∧
  (∀ (n L : Nat) (data data' : Word), L ≤ n → (∀ l < L, lane data l = lane data' l) →
    validBytes (padBytes n (decodeOperand L data)) = validBytes (padBytes n (decodeOperand L data')))

/-- 41_decode.md R62: the sum over bytes, and the same value as Σ e[j]·10^j over the nibbles of the sequence's number, units
first. -/
def Obligations.ReassemblyByPosition : Prop :=
  ∀ P : List Byte, P.length ≤ 8 →
    reassemble P = ((List.range P.length).map fun i =>
      (P.getD i 0#8).toNat / 16 * 10 ^ (2 * (P.length - 1 - i) + 1) +
        (P.getD i 0#8).toNat % 16 * 10 ^ (2 * (P.length - 1 - i))).sum ∧
    reassemble P = ((List.range (2 * P.length)).map fun j =>
      nibbleAt (wordOfBytes P) j * 10 ^ j).sum

/-- 41_decode.md R63: the two chains the rule names give the X of R62, valid or not, and the sum is at most 15·(10^k − 1)/9,
which is below 2^w. -/
def Obligations.AccumulationChainsAgree : Prop :=
  (∀ P : List Byte, reassemble P =
    P.foldl (fun acc b => acc * 100 + 10 * hiNibble b + loNibble b) 0) ∧
  (∀ P : List Byte, reassemble P =
    (P.flatMap fun b => [hiNibble b, loNibble b]).foldl (fun acc e => acc * 10 + e) 0) ∧
  (∀ (w : Width) (P : List Byte), P.length = w.bytes →
    reassemble P ≤ 15 * (10 ^ w.digits - 1) / 9 ∧ 15 * (10 ^ w.digits - 1) / 9 < 2 ^ w.bits)

/-- 41_decode.md R64: one invalid nibble among the lanes below L makes the response exactly 0, with nothing else changed, and the
state left is that of a decode of zeros, so the two cannot be told apart. -/
def Obligations.InvalidNibblePoisons : Prop :=
  ∀ (w : Width) (len : BitVec 4) (data : Word), len.toNat ≤ w.bytes →
    (∃ j < 2 * len.toNat, 9 < nibbleAt data j) →
      Responds (decInstr w len data) 0#64 ∧
      ∀ s : State, exec (decInstr w len data) s = exec (decInstr w len 0#64) s

/-- 41_decode.md R65: a valid padded input has 0 ≤ X ≤ 10^k − 1 < 2^w, and the response has no bit at w or above. -/
def Obligations.DecodeResultFitsWidth : Prop :=
  (∀ (w : Width) (P : List Byte), P.length = w.bytes → validBytes P = true →
    reassemble P ≤ 10 ^ w.digits - 1 ∧ 10 ^ w.digits - 1 < 2 ^ w.bits) ∧
  (∀ (w : Width) (L : Nat) (data : Word), L ≤ w.bytes →
    (decResponse w L data).toNat / 2 ^ w.bits = 0)

/-- 41_decode.md R67, laws (a) to (g). -/
def Obligations.CodecLaws : Prop :=
  ∀ w : Width,
    (∀ V ≤ 10 ^ w.digits - 1, decValue w (encBytes w V) = V) ∧
    (∀ V < 2 ^ w.bits, decValue w (encBytes w V) = V % 10 ^ w.digits) ∧
    (∀ B : List Byte, B.length = w.bytes → validBytes B = true → encBytes w (decValue w B) = B) ∧
    (∀ B : List Byte, B.length ≤ w.bytes → validBytes B = false →
      encBytes w (decValue w B) = List.replicate w.bytes 0#8) ∧
    (∀ B : List Byte, B.length ≤ w.bytes →
      decValue w B = decValue w (List.replicate (w.bytes - B.length) 0#8 ++ B)) ∧
    (decValue w (List.replicate w.bytes 0#8) = 0 ∧ decValue w [] = 0) ∧
    (∀ data data' : Word, data.toNat % 2 ^ w.bits = data'.toNat % 2 ^ w.bits →
      encResponse w data = encResponse w data') ∧
    (∀ (L : Nat) (data data' : Word), L ≤ w.bytes → (∀ l < L, lane data l = lane data' l) →
      decResponse w L data = decResponse w L data')

/-- The round trip through the block (41_decode.md R67(b), 70_reset_and_hazards.md R85): the response to an encode, presented as
the DATA of a decode of the same width with LEN = n, is answered with V mod 10^k. -/
def Obligations.RoundTripThroughBlock : Prop :=
  ∀ (w : Width) (len : BitVec 4) (data : Word), len.toNat = w.bytes →
    ∃ v : Word, Responds (encInstr w data) v ∧
      Responds (decInstr w len v) (BitVec.ofNat 64 (data.toNat % 2 ^ w.bits % 10 ^ w.digits))

/-! ### The eight operations -/

/-- 40_encode.md R55: ENC8, its CTRL, its response {d[1], d[0]}, nothing else written, the corner cases, and the refusal. -/
def Obligations.Enc8Responds : Prop :=
  (∀ data : Word, decode ⟨0x0000#16, data⟩ = .ok (.enc8 data) ∧
    Responds (.enc8 data) (BitVec.ofNat 64
      (16 * (data.toNat % 256 / 10 % 10) + data.toNat % 256 % 10))) ∧
  Responds (.enc8 0#64) 0x00#64 ∧ Responds (.enc8 99#64) 0x99#64 ∧
  Responds (.enc8 100#64) 0x00#64 ∧ Responds (.enc8 255#64) 0x55#64 ∧
  Responds (.enc8 10#64) 0x10#64 ∧ RefusesReserved

/-- 40_encode.md R56: ENC16, its CTRL, its response {P[0], P[1]} = {d[3], d[2], d[1], d[0]}, the corner cases, the refusal. -/
def Obligations.Enc16Responds : Prop :=
  (∀ data : Word, decode ⟨0x0001#16, data⟩ = .ok (.enc16 data) ∧
    Responds (.enc16 data) (BitVec.ofNat 64
      (4096 * decimalDigit (data.toNat % 65536) 3 + 256 * decimalDigit (data.toNat % 65536) 2 +
        16 * decimalDigit (data.toNat % 65536) 1 + decimalDigit (data.toNat % 65536) 0))) ∧
  Responds (.enc16 0#64) 0x0000#64 ∧ Responds (.enc16 9999#64) 0x9999#64 ∧
  Responds (.enc16 10000#64) 0x0000#64 ∧ Responds (.enc16 65535#64) 0x5535#64 ∧
  Responds (.enc16 100#64) 0x0100#64 ∧ RefusesReserved

/-- 40_encode.md R57: ENC32, its CTRL, its response Σ d[j]·16^j over the eight digits of DATA[31:0] (byte P[i] = {d[7−2i],
d[6−2i]}), the corner cases, the refusal. -/
def Obligations.Enc32Responds : Prop :=
  (∀ data : Word, decode ⟨0x0002#16, data⟩ = .ok (.enc32 data) ∧
    ∃ v : Word, Responds (.enc32 data) v ∧
      v.toNat = ((List.range 8).map fun j => decimalDigit (data.toNat % 2 ^ 32) j * 16 ^ j).sum ∧
      ∀ i < 4, hiNibble (lane v (3 - i)) = decimalDigit (data.toNat % 2 ^ 32) (7 - 2 * i) ∧
        loNibble (lane v (3 - i)) = decimalDigit (data.toNat % 2 ^ 32) (6 - 2 * i)) ∧
  Responds (.enc32 0#64) 0x00000000#64 ∧ Responds (.enc32 99999999#64) 0x99999999#64 ∧
  Responds (.enc32 100000000#64) 0x00000000#64 ∧ Responds (.enc32 4294967295#64) 0x94967295#64 ∧
  Responds (.enc32 12345678#64) 0x12345678#64 ∧ RefusesReserved

/-- 40_encode.md R58: ENC64, its CTRL, its response Σ d[j]·16^j over the sixteen digits of DATA (byte P[i] = {d[15−2i],
d[14−2i]}), truncation from 10^16 up, the corner cases, the refusal. -/
def Obligations.Enc64Responds : Prop :=
  (∀ data : Word, decode ⟨0x0003#16, data⟩ = .ok (.enc64 data) ∧
    ∃ v : Word, Responds (.enc64 data) v ∧
      v.toNat = ((List.range 16).map fun j => decimalDigit data.toNat j * 16 ^ j).sum ∧
      ∀ i < 8, hiNibble (lane v (7 - i)) = decimalDigit data.toNat (15 - 2 * i) ∧
        loNibble (lane v (7 - i)) = decimalDigit data.toNat (14 - 2 * i)) ∧
  Responds (.enc64 0#64) 0#64 ∧
  Responds (.enc64 9999999999999999#64) 0x9999999999999999#64 ∧
  Responds (.enc64 10000000000000000#64) 0#64 ∧
  Responds (.enc64 18446744073709551615#64) 0x6744073709551615#64 ∧ RefusesReserved

/-- 41_decode.md R68: DEC8 with LEN 0 or 1, its CTRL, X = 10·h_0 + l_0 if both nibbles are valid and 0 otherwise, LEN ≥ 2
refused, the corner cases. -/
def Obligations.Dec8Responds : Prop :=
  (∀ (len : BitVec 4) (data : Word),
    (len.toNat ≤ 1 →
      decode ⟨0x0004#16 + 0x10#16 * len.setWidth 16, data⟩ = .ok (.dec8 len data) ∧
      Responds (.dec8 len data) (BitVec.ofNat 64
        (if paddedNibble len.toNat data 1 ≤ 9 ∧ paddedNibble len.toNat data 0 ≤ 9 then
          10 * paddedNibble len.toNat data 1 + paddedNibble len.toNat data 0 else 0))) ∧
    (2 ≤ len.toNat →
      decode ⟨0x0004#16 + 0x10#16 * len.setWidth 16, data⟩ = .error .decodeLen ∧
      ∀ s : State, exec (.dec8 len data) s = .refused (.reservedEncoding .decodeLen))) ∧
  Responds (.dec8 1#4 0x0F#64) 0#64 ∧ Responds (.dec8 1#4 0xA0#64) 0#64 ∧
  Responds (.dec8 1#4 0x9A#64) 0#64 ∧ Responds (.dec8 1#4 0x99#64) 99#64 ∧
  Responds (.dec8 1#4 0x00#64) 0#64 ∧ (∀ data, Responds (.dec8 0#4 data) 0#64) ∧
  Responds (.dec8 1#4 0x10#64) 10#64 ∧ Responds (.dec8 1#4 0xFFFFFFFFFFFFFF42#64) 42#64 ∧
  RefusesReserved

/-- 41_decode.md R69: DEC16 with LEN 0 to 2, its CTRL, X = 1000·h_0 + 100·l_0 + 10·h_1 + l_1 when every nibble is valid and 0
otherwise, LEN ≥ 3 refused, the corner cases. -/
def Obligations.Dec16Responds : Prop :=
  (∀ (len : BitVec 4) (data : Word),
    (len.toNat ≤ 2 →
      decode ⟨0x0005#16 + 0x10#16 * len.setWidth 16, data⟩ = .ok (.dec16 len data) ∧
      Responds (.dec16 len data) (BitVec.ofNat 64
        (if ∀ j < 4, paddedNibble len.toNat data j ≤ 9 then
          1000 * paddedNibble len.toNat data 3 + 100 * paddedNibble len.toNat data 2 +
            10 * paddedNibble len.toNat data 1 + paddedNibble len.toNat data 0 else 0))) ∧
    (3 ≤ len.toNat →
      decode ⟨0x0005#16 + 0x10#16 * len.setWidth 16, data⟩ = .error .decodeLen ∧
      ∀ s : State, exec (.dec16 len data) s = .refused (.reservedEncoding .decodeLen))) ∧
  Responds (.dec16 2#4 0x9999#64) 9999#64 ∧ Responds (.dec16 2#4 0x00F0#64) 0#64 ∧
  Responds (.dec16 2#4 0x5535#64) 5535#64 ∧ Responds (.dec16 2#4 0x0100#64) 100#64 ∧
  Responds (.dec16 1#4 0x12#64) 12#64 ∧ (∀ data, Responds (.dec16 0#4 data) 0#64) ∧
  Responds (.dec16 2#4 0xA000#64) 0#64 ∧ RefusesReserved

/-- 41_decode.md R70: DEC32 with LEN 0 to 4, its CTRL, its response by the closed form of R62 and R64, LEN ≥ 5 refused, the
corner cases. -/
def Obligations.Dec32Responds : Prop :=
  (∀ (len : BitVec 4) (data : Word),
    (len.toNat ≤ 4 →
      decode ⟨0x0006#16 + 0x10#16 * len.setWidth 16, data⟩ = .ok (.dec32 len data) ∧
      Responds (.dec32 len data) (BitVec.ofNat 64
        (if ∀ j < 8, paddedNibble len.toNat data j ≤ 9 then
          ((List.range 8).map fun j => paddedNibble len.toNat data j * 10 ^ j).sum else 0))) ∧
    (5 ≤ len.toNat →
      decode ⟨0x0006#16 + 0x10#16 * len.setWidth 16, data⟩ = .error .decodeLen ∧
      ∀ s : State, exec (.dec32 len data) s = .refused (.reservedEncoding .decodeLen))) ∧
  Responds (.dec32 1#4 0x99#64) 99#64 ∧ Responds (.dec32 4#4 0x12345678#64) 12345678#64 ∧
  Responds (.dec32 4#4 0x99999999#64) 99999999#64 ∧ Responds (.dec32 4#4 0x1234567A#64) 0#64 ∧
  Responds (.dec32 3#4 0x010000#64) 10000#64 ∧ (∀ data, Responds (.dec32 0#4 data) 0#64) ∧
  Responds (.dec32 1#4 0x00000000FFFFFF99#64) 99#64 ∧ RefusesReserved

/-- 41_decode.md R71: DEC64 with LEN 0 to 8, its CTRL, its response by the closed form of R62 and R64, LEN ≥ 9 refused, the
corner cases. -/
def Obligations.Dec64Responds : Prop :=
  (∀ (len : BitVec 4) (data : Word),
    (len.toNat ≤ 8 →
      decode ⟨0x0007#16 + 0x10#16 * len.setWidth 16, data⟩ = .ok (.dec64 len data) ∧
      Responds (.dec64 len data) (BitVec.ofNat 64
        (if ∀ j < 16, paddedNibble len.toNat data j ≤ 9 then
          ((List.range 16).map fun j => paddedNibble len.toNat data j * 10 ^ j).sum else 0))) ∧
    (9 ≤ len.toNat →
      decode ⟨0x0007#16 + 0x10#16 * len.setWidth 16, data⟩ = .error .decodeLen ∧
      ∀ s : State, exec (.dec64 len data) s = .refused (.reservedEncoding .decodeLen))) ∧
  Responds (.dec64 8#4 0xFF00000000000000#64) 0#64 ∧
  Responds (.dec64 8#4 0x9999999999999999#64) 9999999999999999#64 ∧
  Responds (.dec64 8#4 0x6744073709551615#64) 6744073709551615#64 ∧
  Responds (.dec64 1#4 0x99#64) 99#64 ∧ Responds (.dec64 8#4 0x0A#64) 0#64 ∧
  (∀ data, Responds (.dec64 0#4 data) 0#64) ∧ RefusesReserved

/-- Every well-formed instruction, in every state, answers its request's closed-form response and changes nothing else: the
response is a function of the request's CTRL and DATA alone (10_state.md R12, 70_reset_and_hazards.md R86). -/
def Obligations.EveryOperationResponds : Prop :=
  ∀ i : Instr, i.wellFormed = true → Responds i (expectedResponse (encode i))

/-! ### The step -/

/-- A step that takes a request runs exactly the instruction it decodes to. Around exec the model ages the queue first (or finds
it emptied by an asynchronous reset) and then presents what is due and lets the requester drive its next inputs. -/
def Obligations.StepRunsDecoded : Prop :=
  ∀ (s : State) (i : Instr), s.accepting = true → decode s.request = .ok i →
    step s = andThen (exec i s.beginEdge) State.endEdge

/-- A table word presented with withFetchWord is what the next step runs, from every state and at every LATENCY (log 11). -/
def Obligations.FetchWordIsRun : Prop :=
  ∀ (s : State) (nbits w : Nat) (i : Instr), decodeTableWord nbits w = some i →
    step (s.withFetchWord nbits w) = andThen (exec i (s.withFetchWord nbits w).beginEdge) State.endEdge

/-- 70_reset_and_hazards.md R81 and R7: an edge with reset asserted discards all requests in flight and holds RESP_VALID at 0,
and after it the pipeline is empty; no response is presented for what was discarded. With LATENCY = 0 there is no reset input:
the value of RST has no effect. -/
def Obligations.ResetDiscardsEverything : Prop :=
  (∀ s : State, 1 ≤ s.params.latency → s.pins.rst = true →
    ∃ t, step s = .next t ∧ t.inFlight = [] ∧ t.respValid = false ∧ t.observed = s.observed ∧
      t.params = s.params) ∧
  (∀ (s : State) (level pulse : Bool), s.params.latency = 0 →
    step { s with pins := { s.pins with rst := level, rstPulse := pulse } } = step s)

/-- RESET_KIND's synchrony (R7, R81), on log 7's reading of it: a reset between two edges has no effect when reset is
synchronous; when it is asynchronous, the step is that of the same machine with nothing in flight. -/
def Obligations.ResetBetweenEdges : Prop :=
  ∀ s : State, 1 ≤ s.params.latency → s.pins.rst = false → s.pins.rstPulse = true →
    (s.params.resetKind.synchronous = true →
      step s = step { s with pins := { s.pins with rstPulse := false } }) ∧
    (s.params.resetKind.synchronous = false →
      step s = step { s with pins := { s.pins with rstPulse := false }, inFlight := [] })

/-- 70_reset_and_hazards.md R83, LATENCY ≥ 1: a request is taken at each edge with REQ_VALID = 1 and no reset, however much is in
flight, and at no other. The queue after the step is what was in flight, one edge nearer and less what is due, with the new
response last. -/
def Obligations.RequestAcceptance : Prop :=
  ∀ s : State, s.PipelineOk → 1 ≤ s.params.latency → s.pins.noReset →
    (s.pins.reqValid = true → wfCtrl s.pins.ctrl = true → ∃ t, step s = .next t ∧
      t.inFlight = ((s.inFlight.filter fun p => 1 < p.wait).map fun p => ⟨p.word, p.wait - 1⟩) ++
        [⟨expectedResponse s.request, s.params.latency⟩]) ∧
    (s.pins.reqValid = false → ∃ t, step s = .next t ∧
      t.inFlight = (s.inFlight.filter fun p => 1 < p.wait).map fun p => ⟨p.word, p.wait - 1⟩)

/-- 70_reset_and_hazards.md R83, LATENCY = 0: RESULT is the response to the CTRL and DATA presented, in the same step, and
nothing is in flight after it. RESP_VALID is then the model's mark (log 6). -/
def Obligations.CombinationalResponse : Prop :=
  ∀ s : State, s.PipelineOk → s.params.latency = 0 → wfCtrl s.pins.ctrl = true →
    ∃ t, step s = .next t ∧ t.result = expectedResponse s.request ∧ t.respValid = true ∧
      t.inFlight = [] ∧ t.observed = s.observed ++ [expectedResponse s.request]

/-- 70_reset_and_hazards.md R84, one edge at LATENCY ≥ 1: RESP_VALID = 1 exactly when a response is due at this edge, RESULT then
holds it whole, and the observation grows by it; otherwise RESP_VALID = 0 and the observation is unchanged. -/
def Obligations.OutputsShowWhatIsDue : Prop :=
  ∀ s t : State, s.PipelineOk → 1 ≤ s.params.latency → s.pins.noReset → step s = .next t →
    (∀ p ∈ s.inFlight, p.wait = 1 →
      t.respValid = true ∧ t.result = p.word ∧ t.observed = s.observed ++ [p.word]) ∧
    ((∀ p ∈ s.inFlight, p.wait ≠ 1) → t.respValid = false ∧ t.observed = s.observed)

/-- 70_reset_and_hazards.md R84: the response to a request taken now is on RESULT with RESP_VALID = 1 after LATENCY more steps,
whatever was in flight, if no reset comes until then and every request taken until then is well formed. -/
def Obligations.ResponseAfterLatency : Prop :=
  ∀ s : State, s.PipelineOk → s.accepting = true → wfCtrl s.pins.ctrl = true →
    (∀ p ∈ s.upcoming.take s.params.latency,
      p.noReset ∧ (p.reqValid = true → wfCtrl p.ctrl = true)) →
    ∃ t, steps (s.params.latency + 1) s = .next t ∧ t.respValid = true ∧
      t.result = expectedResponse s.request

/-! ### Invariants -/

/-- Every step keeps the in-flight queue in order: each response 1 to LATENCY edges away, the older the nearer (10_state.md
R19, 70_reset_and_hazards.md R84). -/
def Obligations.StepKeepsPipelineOk : Prop :=
  ∀ s t : State, s.PipelineOk → step s = .next t → t.PipelineOk

/-- 10_state.md R19: at most LATENCY requests are in flight; none when LATENCY = 0. -/
def Obligations.AtMostLatencyInFlight : Prop :=
  ∀ s : State, s.PipelineOk → s.inFlight.length ≤ s.params.latency

/-- Every step keeps this: while RESP_VALID = 1, RESULT is the last response of the observation (70_reset_and_hazards.md R84,
R86). -/
def Obligations.StepKeepsShownResponse : Prop :=
  ∀ s t : State, s.ShownOk → step s = .next t → t.ShownOk

/-- The state after reset (10_state.md R20): nothing in flight, RESP_VALID = 0, and both invariants hold. -/
def Obligations.ResetMeetsInvariants : Prop :=
  State.reset.inFlight = [] ∧ State.reset.respValid = false ∧ State.reset.PipelineOk ∧ State.reset.ShownOk

/-- No step changes LATENCY or RESET_KIND (00_scope.md R7), and no step takes back a response: the observation only grows, by at
most one response a step (70_reset_and_hazards.md R84, R86). -/
def Obligations.ParametersAndObservationPersist : Prop :=
  ∀ s t : State, step s = .next t → t.params = s.params ∧
    (t.observed = s.observed ∨ ∃ v, t.observed = s.observed ++ [v])

/-- 70_reset_and_hazards.md R82: any well-formed request may be presented in the first step after reset, and it is answered:
RESULT holds its response after LATENCY more steps. That no other request follows it is State.reset's own empty list of later
inputs (log 4). -/
def Obligations.FirstRequestAfterReset : Prop :=
  ∀ r : Request, wfCtrl r.ctrl = true →
    ∃ t, steps (Config.latency + 1) (State.reset.presentRequest r) = .next t ∧
      t.respValid = true ∧ t.result = expectedResponse r

/-! ### Runs -/

/-- 70_reset_and_hazards.md R86, R84: from any state with nothing in flight, whatever the requester drives in `ps` (requests and
gaps, any operations and widths, no reset), if every request taken is well formed, then after one step for each of `ps` and
LATENCY more the observation is the closed-form response to each request taken, in request order. -/
def Obligations.RunObservation : Prop :=
  ∀ (s : State) (ps : List Pins), s.inFlight = [] →
    (∀ p ∈ ps, p.noReset ∧ (takes s.params p = true → wfCtrl p.ctrl = true)) →
    ∃ t, steps (ps.length + s.params.latency) (s.driving ps) = .next t ∧ t.inFlight = [] ∧
      t.observed = s.observed ++ observation s.params ps

/-- 70_reset_and_hazards.md R86, 60_exceptions.md R73: a run that holds one request that is not well formed is refused as a
whole. -/
def Obligations.RunWithReservedRequestIsRefused : Prop :=
  ∀ (s : State) (ps : List Pins), s.inFlight = [] → (∀ p ∈ ps, p.noReset) →
    (∃ p ∈ ps, takes s.params p = true ∧ wfCtrl p.ctrl = false) →
    ∃ why, steps (ps.length + s.params.latency) (s.driving ps) = .refused (.reservedEncoding why)
end

