-- ==== Sys2Proof/Laws/State.lean ====
section
/-!
SUPPORT. One lemma per field per state operation, so that no later proof unfolds a record update.
-/

namespace Sys2Proof.Machine

section respond
variable (s : State) (v : Word)
@[simp] theorem State.respond_params : (s.respond v).params = s.params := rfl
@[simp] theorem State.respond_pins : (s.respond v).pins = s.pins := rfl
@[simp] theorem State.respond_upcoming : (s.respond v).upcoming = s.upcoming := rfl
@[simp] theorem State.respond_inFlight :
    (s.respond v).inFlight = s.inFlight ++ [{ word := v, wait := s.params.latency }] := rfl
@[simp] theorem State.respond_result : (s.respond v).result = s.result := rfl
@[simp] theorem State.respond_respValid : (s.respond v).respValid = s.respValid := rfl
@[simp] theorem State.respond_observed : (s.respond v).observed = s.observed := rfl
@[simp] theorem State.respond_draws : (s.respond v).draws = s.draws := rfl
end respond

section discard
variable (s : State)
@[simp] theorem State.discard_params : s.discard.params = s.params := rfl
@[simp] theorem State.discard_pins : s.discard.pins = s.pins := rfl
@[simp] theorem State.discard_upcoming : s.discard.upcoming = s.upcoming := rfl
@[simp] theorem State.discard_inFlight : s.discard.inFlight = [] := rfl
@[simp] theorem State.discard_result : s.discard.result = s.result := rfl
@[simp] theorem State.discard_respValid : s.discard.respValid = s.respValid := rfl
@[simp] theorem State.discard_observed : s.discard.observed = s.observed := rfl
@[simp] theorem State.discard_draws : s.discard.draws = s.draws := rfl
end discard

section age
variable (s : State)
@[simp] theorem State.age_params : s.age.params = s.params := rfl
@[simp] theorem State.age_pins : s.age.pins = s.pins := rfl
@[simp] theorem State.age_upcoming : s.age.upcoming = s.upcoming := rfl
@[simp] theorem State.age_inFlight :
    s.age.inFlight = s.inFlight.map fun p => { p with wait := p.wait - 1 } := rfl
@[simp] theorem State.age_result : s.age.result = s.result := rfl
@[simp] theorem State.age_respValid : s.age.respValid = s.respValid := rfl
@[simp] theorem State.age_observed : s.age.observed = s.observed := rfl
@[simp] theorem State.age_draws : s.age.draws = s.draws := rfl
end age

section showNothing
variable (s : State)
@[simp] theorem State.showNothing_params : s.showNothing.params = s.params := rfl
@[simp] theorem State.showNothing_pins : s.showNothing.pins = s.pins := rfl
@[simp] theorem State.showNothing_upcoming : s.showNothing.upcoming = s.upcoming := rfl
@[simp] theorem State.showNothing_inFlight : s.showNothing.inFlight = s.inFlight := rfl
@[simp] theorem State.showNothing_result : s.showNothing.result = Config.freeResult s.draws := rfl
@[simp] theorem State.showNothing_respValid : s.showNothing.respValid = false := rfl
@[simp] theorem State.showNothing_observed : s.showNothing.observed = s.observed := rfl
@[simp] theorem State.showNothing_draws : s.showNothing.draws = s.draws + 1 := rfl
end showNothing

section driveNext
variable (s : State)
@[simp] theorem State.driveNext_params : s.driveNext.params = s.params := by
  unfold State.driveNext; split <;> rfl
@[simp] theorem State.driveNext_pins : s.driveNext.pins =
    s.upcoming.headD { s.pins with reqValid := false, rst := false, rstPulse := false } := by
  unfold State.driveNext; split <;> simp [*]
@[simp] theorem State.driveNext_upcoming : s.driveNext.upcoming = s.upcoming.tail := by
  unfold State.driveNext; split <;> simp [*]
@[simp] theorem State.driveNext_inFlight : s.driveNext.inFlight = s.inFlight := by
  unfold State.driveNext; split <;> rfl
@[simp] theorem State.driveNext_result : s.driveNext.result = s.result := by
  unfold State.driveNext; split <;> rfl
@[simp] theorem State.driveNext_respValid : s.driveNext.respValid = s.respValid := by
  unfold State.driveNext; split <;> rfl
@[simp] theorem State.driveNext_observed : s.driveNext.observed = s.observed := by
  unfold State.driveNext; split <;> rfl
@[simp] theorem State.driveNext_draws : s.driveNext.draws = s.draws := by
  unfold State.driveNext; split <;> rfl
end driveNext

section presentRequest
variable (s : State) (r : Request)
@[simp] theorem State.presentRequest_request : (s.presentRequest r).request = r := rfl
@[simp] theorem State.presentRequest_params : (s.presentRequest r).params = s.params := rfl
@[simp] theorem State.presentRequest_upcoming : (s.presentRequest r).upcoming = s.upcoming := rfl
@[simp] theorem State.presentRequest_inFlight : (s.presentRequest r).inFlight = s.inFlight := rfl
@[simp] theorem State.presentRequest_result : (s.presentRequest r).result = s.result := rfl
@[simp] theorem State.presentRequest_respValid : (s.presentRequest r).respValid = s.respValid := rfl
@[simp] theorem State.presentRequest_observed : (s.presentRequest r).observed = s.observed := rfl
@[simp] theorem State.presentRequest_draws : (s.presentRequest r).draws = s.draws := rfl
/-- A presented request is taken in the next step, whatever `LATENCY` is. -/
@[simp] theorem State.presentRequest_accepting : (s.presentRequest r).accepting = true := rfl
end presentRequest

end Sys2Proof.Machine
end

