-- ==== Sys2Proof/Laws/Ops.lean ====
section
/-!
SUPPORT. What each shared operation can do, said once: presenting, beginning and ending an edge, the meanings of the two
directions, and one step.
-/

namespace Sys2Proof.Machine

/-! ### The level of RST -/

@[simp] theorem resetLevel_asserted (k : ResetKind) : resetLevel k true = k.activeHigh := by
  cases h : k.activeHigh <;> simp [resetLevel, h]

@[simp] theorem resetLevel_released (k : ResetKind) : resetLevel k false = !k.activeHigh := by
  simp [resetLevel]

/-! ### Presenting -/

/-- Presenting either shows the oldest response, which is due, or shows nothing. -/
theorem State.present_cases (s : State) :
    (∃ v later, s.inFlight = ⟨v, 0⟩ :: later ∧
      s.present = { s with inFlight := later, result := v, respValid := true,
                           observed := s.observed ++ [v] }) ∨
    ((∀ p later, s.inFlight = p :: later → p.wait ≠ 0) ∧ s.present = s.showNothing) := by
  unfold State.present
  split
  · rename_i v later h
    exact .inl ⟨v, later, h, rfl⟩
  · rename_i h
    refine .inr ⟨?_, rfl⟩
    rintro ⟨v, _ | n⟩ later hp
    · exact absurd hp (h v later)
    · exact Nat.succ_ne_zero n

@[simp] theorem State.present_params (s : State) : s.present.params = s.params := by
  unfold State.present; split <;> rfl

@[simp] theorem State.present_pins (s : State) : s.present.pins = s.pins := by
  unfold State.present; split <;> rfl

@[simp] theorem State.present_upcoming (s : State) : s.present.upcoming = s.upcoming := by
  unfold State.present; split <;> rfl

theorem State.present_due {s : State} {v : Word} {later : List Pending}
    (h : s.inFlight = ⟨v, 0⟩ :: later) :
    s.present = { s with inFlight := later, result := v, respValid := true,
                         observed := s.observed ++ [v] } := by
  unfold State.present; simp [h]

theorem State.present_idle {s : State} (h : ∀ p ∈ s.inFlight, p.wait ≠ 0) :
    s.present = s.showNothing := by
  obtain ⟨v, later, hq, -⟩ | ⟨-, hp⟩ := s.present_cases
  · exact absurd rfl (h ⟨v, 0⟩ (by simp [hq]))
  · exact hp

/-! ### The two halves of an edge -/

@[simp] theorem State.beginEdge_params (s : State) : s.beginEdge.params = s.params := by
  unfold State.beginEdge; split <;> rfl

@[simp] theorem State.beginEdge_pins (s : State) : s.beginEdge.pins = s.pins := by
  unfold State.beginEdge; split <;> rfl

@[simp] theorem State.beginEdge_upcoming (s : State) : s.beginEdge.upcoming = s.upcoming := by
  unfold State.beginEdge; split <;> rfl

@[simp] theorem State.beginEdge_observed (s : State) : s.beginEdge.observed = s.observed := by
  unfold State.beginEdge; split <;> rfl

@[simp] theorem State.beginEdge_inFlight (s : State) : s.beginEdge.inFlight =
    if s.resetBetween then [] else s.inFlight.map fun p => { p with wait := p.wait - 1 } := by
  unfold State.beginEdge; split <;> rfl

@[simp] theorem State.endEdge_params (s : State) : s.endEdge.params = s.params := by
  simp [State.endEdge]

@[simp] theorem State.endEdge_upcoming (s : State) : s.endEdge.upcoming = s.upcoming.tail := by
  simp [State.endEdge]

@[simp] theorem State.endEdge_inFlight (s : State) : s.endEdge.inFlight = s.present.inFlight := by
  simp [State.endEdge]

@[simp] theorem State.endEdge_result (s : State) : s.endEdge.result = s.present.result := by
  simp [State.endEdge]

@[simp] theorem State.endEdge_respValid (s : State) : s.endEdge.respValid = s.present.respValid := by
  simp [State.endEdge]

@[simp] theorem State.endEdge_observed (s : State) : s.endEdge.observed = s.present.observed := by
  simp [State.endEdge]

@[simp] theorem State.resetEdge_params (s : State) : s.resetEdge.params = s.params := by
  simp [State.resetEdge]

@[simp] theorem State.resetEdge_inFlight (s : State) : s.resetEdge.inFlight = [] := by
  simp [State.resetEdge]

@[simp] theorem State.resetEdge_respValid (s : State) : s.resetEdge.respValid = false := by
  simp [State.resetEdge]

@[simp] theorem State.resetEdge_observed (s : State) : s.resetEdge.observed = s.observed := by
  simp [State.resetEdge]

/-! ### Going on from an outcome -/

@[simp] theorem andThen_next (s : State) (f : State → State) : andThen (.next s) f = .next (f s) := rfl

@[simp] theorem andThen_refused (r : Refusal) (f : State → State) :
    andThen (.refused r) f = .refused r := rfl

theorem andThen_eq_next {o : Host.Outcome State Fault Refusal} {f : State → State} {t : State}
    (h : andThen o f = .next t) : ∃ u, o = .next u ∧ t = f u := by
  cases o with
  | next u => exact ⟨u, rfl, by simpa [andThen] using h.symm⟩
  | fault r => cases r
  | refused r => cases h

/-! ### The meanings of the two directions -/

/-- A decode completes exactly when LEN ≤ n, and then it only hands over its response. -/
theorem decodeOp_eq_next {w : Width} {len : BitVec 4} {data : Word} {s t : State}
    (h : decodeOp w len data s = .next t) :
    len.toNat ≤ w.bytes ∧ t = s.respond (decResponse w len.toNat data) := by
  unfold decodeOp at h
  split at h
  · exact ⟨‹_›, by simpa using h.symm⟩
  · cases h

/-- Whatever the operation, a next state is the old one with one response handed to the queue. -/
theorem exec_eq_next {i : Instr} {s t : State} (h : exec i s = .next t) :
    i.wellFormed = true ∧ ∃ v, t = s.respond v := by
  cases i with
  | enc8 data | enc16 data | enc32 data | enc64 data => exact ⟨rfl, _, by cases h; rfl⟩
  | dec8 len data | dec16 len data | dec32 len data | dec64 len data =>
    obtain ⟨hl, rfl⟩ := decodeOp_eq_next h
    exact ⟨by simpa [Instr.wellFormed] using hl, _, rfl⟩

/-! ### One step -/

/-- Everything a step that answers a next state can have done: a reset edge, an edge that takes a request, or an edge that
takes none. -/
theorem step_cases {s t : State} (h : step s = .next t) :
    (s.resetAtEdge = true ∧ t = s.resetEdge) ∨
    (s.accepting = true ∧ ∃ i v, s.fetch = .ok i ∧ exec i s.beginEdge = .next (s.beginEdge.respond v) ∧
      t = (s.beginEdge.respond v).endEdge) ∨
    (s.resetAtEdge = false ∧ s.accepting = false ∧ t = s.beginEdge.endEdge) := by
  unfold step cycle at h
  split at h
  · exact .inl ⟨‹_›, by simpa using h.symm⟩
  · rename_i hr
    split at h
    · rename_i ha
      refine .inr (.inl ⟨ha, ?_⟩)
      unfold runRequest at h
      split at h
      · cases h
      · rename_i i hf
        obtain ⟨u, hu, rfl⟩ := andThen_eq_next h
        obtain ⟨-, v, rfl⟩ := exec_eq_next hu
        exact ⟨i, v, hf, hu, rfl⟩
    · rename_i ha
      exact .inr (.inr ⟨by simpa using hr, by simpa using ha, by simpa using h.symm⟩)

/-- The three forms of a step, without a premise on its outcome. -/
theorem step_of_reset {s : State} (h : s.resetAtEdge = true) : step s = .next s.resetEdge := by
  simp [step, cycle, h]

theorem step_of_idle {s : State} (hr : s.resetAtEdge = false) (ha : s.accepting = false) :
    step s = .next s.beginEdge.endEdge := by
  simp [step, cycle, hr, ha]

theorem step_of_request {s : State} (ha : s.accepting = true) : step s = runRequest s := by
  have hr : s.resetAtEdge = false := by
    simp only [State.accepting, Bool.and_eq_true] at ha
    simpa using ha.2
  simp [step, cycle, hr, ha]

end Sys2Proof.Machine
end

