-- ==== Sys2Proof/Laws/PerInstr.lean ====
section
/-!
SUPPORT. The per-instruction family `CtrlFields`: the CTRL word of an instruction's encoding has zero reserved bits and is the
pattern of the instruction's row of the opcode map (30_encoding.md R38, R43).
-/

namespace Sys2Proof.Laws

/-- The reserved fields of the encoding are zero, and CTRL is the pattern of its opcode-table row under the row's mask. -/
def CtrlFields.Statement (i : Instr) : Prop :=
  ctrlRsv1 (encode i).ctrl = 0#8 ∧ ctrlRsv0 (encode i).ctrl = false ∧
    ∃ row ∈ opcodeTable, row.mnemonic = i.mnemonic ∧ (encode i).ctrl &&& row.mask = row.pattern

theorem CtrlFields.enc8 (data : Word) : CtrlFields.Statement (.enc8 data) := by
  refine ⟨?_, ?_, ⟨"ENC8", 0x0000#16, 0xFFFF#16, 0⟩, by decide, rfl, ?_⟩ <;>
    · simp only [encode]; decide

theorem CtrlFields.enc16 (data : Word) : CtrlFields.Statement (.enc16 data) := by
  refine ⟨?_, ?_, ⟨"ENC16", 0x0001#16, 0xFFFF#16, 0⟩, by decide, rfl, ?_⟩ <;>
    · simp only [encode]; decide

theorem CtrlFields.enc32 (data : Word) : CtrlFields.Statement (.enc32 data) := by
  refine ⟨?_, ?_, ⟨"ENC32", 0x0002#16, 0xFFFF#16, 0⟩, by decide, rfl, ?_⟩ <;>
    · simp only [encode]; decide

theorem CtrlFields.enc64 (data : Word) : CtrlFields.Statement (.enc64 data) := by
  refine ⟨?_, ?_, ⟨"ENC64", 0x0003#16, 0xFFFF#16, 0⟩, by decide, rfl, ?_⟩ <;>
    · simp only [encode]; decide

theorem CtrlFields.dec8 (len : BitVec 4) (data : Word) : CtrlFields.Statement (.dec8 len data) := by
  refine ⟨?_, ?_, ⟨"DEC8", 0x0004#16, 0xFF0F#16, 1⟩, by decide, rfl, ?_⟩ <;>
    · simp only [encode]; revert len; decide

theorem CtrlFields.dec16 (len : BitVec 4) (data : Word) : CtrlFields.Statement (.dec16 len data) := by
  refine ⟨?_, ?_, ⟨"DEC16", 0x0005#16, 0xFF0F#16, 2⟩, by decide, rfl, ?_⟩ <;>
    · simp only [encode]; revert len; decide

theorem CtrlFields.dec32 (len : BitVec 4) (data : Word) : CtrlFields.Statement (.dec32 len data) := by
  refine ⟨?_, ?_, ⟨"DEC32", 0x0006#16, 0xFF0F#16, 4⟩, by decide, rfl, ?_⟩ <;>
    · simp only [encode]; revert len; decide

theorem CtrlFields.dec64 (len : BitVec 4) (data : Word) : CtrlFields.Statement (.dec64 len data) := by
  refine ⟨?_, ?_, ⟨"DEC64", 0x0007#16, 0xFF0F#16, 8⟩, by decide, rfl, ?_⟩ <;>
    · simp only [encode]; revert len; decide

end Sys2Proof.Laws
end

