-- ==== Sys2Proof/Tests/Slice0.lean ====
section
/-!
SUPPORT. The model's own tests. Expected values are those of 95_test_vectors.md and of the corner cases of 40_encode.md R55 to R58
and 41_decode.md R68 to R71; the last part shows, for each obligation with hypotheses, a case that meets them all.
-/

namespace Sys2Proof.Tests
open Sys2Proof.Machine

/-! ### Helpers -/

/-- A block with `LATENCY` = N, an active-high reset, and nothing in flight. -/
def blockWith (N : Nat) (synchronous : Bool) : State :=
  { params := ⟨N, ⟨true, synchronous⟩⟩, pins := Pins.quiet, upcoming := [], inFlight := [],
    result := 0#64, respValid := false, observed := [], draws := 1 }

/-- The same, with a request on its inputs. -/
def presented (N : Nat) (ctrl : Ctrl) (data : Word) : State :=
  (blockWith N true).presentRequest ⟨ctrl, data⟩

/-- The response a next state has in the queue last. -/
def lastResponse (o : Host.Outcome State Fault Refusal) : Option Word :=
  match o with
  | .next t => t.inFlight.getLast?.map Pending.word
  | _ => none

/-- The outputs RESP_VALID and RESULT of a next state that shows a response. -/
def shown (o : Host.Outcome State Fault Refusal) : Option Word :=
  match o with
  | .next t => if t.respValid then some t.result else none
  | _ => none

/-- Why an outcome is a refusal. -/
def refusal (o : Host.Outcome State Fault Refusal) : Option Refusal :=
  match o with
  | .refused r => some r
  | _ => none

/-! ### WellFormed: one ill-formed term for each check -/

theorem test_dec8_len2_illFormed : (Instr.dec8 2#4 0#64).wellFormed = false := by decide
theorem test_dec16_len3_illFormed : (Instr.dec16 3#4 0#64).wellFormed = false := by decide
theorem test_dec32_len5_illFormed : (Instr.dec32 5#4 0#64).wellFormed = false := by decide
theorem test_dec64_len9_illFormed : (Instr.dec64 9#4 0#64).wellFormed = false := by decide
theorem test_dec64_len8_wellFormed : (Instr.dec64 8#4 0#64).wellFormed = true := by decide
theorem test_wfCtrl_rsv1 : wfCtrl 0x8003#16 = false := by decide
theorem test_wfCtrl_rsv0 : wfCtrl 0x0008#16 = false := by decide
theorem test_wfCtrl_encodeLen : wfCtrl 0x0010#16 = false := by decide
theorem test_wfCtrl_decodeLen : wfCtrl 0x0097#16 = false := by decide

/-! ### Decode: words written out from 30_encoding.md R43, {RSV1, LEN, RSV0, DIR, WIDTH} -/

theorem test_decode_enc8 : decode ⟨0b00000000_0000_0_0_00#16, 255#64⟩ = .ok (.enc8 255#64) := by rfl
theorem test_decode_enc16 : decode ⟨0b00000000_0000_0_0_01#16, 7#64⟩ = .ok (.enc16 7#64) := by rfl
theorem test_decode_enc32 : decode ⟨0b00000000_0000_0_0_10#16, 7#64⟩ = .ok (.enc32 7#64) := by rfl
theorem test_decode_enc64 : decode ⟨0b00000000_0000_0_0_11#16, 7#64⟩ = .ok (.enc64 7#64) := by rfl
theorem test_decode_dec8 : decode ⟨0b00000000_0001_0_1_00#16, 7#64⟩ = .ok (.dec8 1#4 7#64) := by rfl
theorem test_decode_dec16 : decode ⟨0b00000000_0010_0_1_01#16, 7#64⟩ = .ok (.dec16 2#4 7#64) := by rfl
theorem test_decode_dec32 : decode ⟨0b00000000_0011_0_1_10#16, 7#64⟩ = .ok (.dec32 3#4 7#64) := by rfl
theorem test_decode_dec64 : decode ⟨0b00000000_1000_0_1_11#16, 7#64⟩ = .ok (.dec64 8#4 7#64) := by rfl
theorem test_decodeTableWord_dec8 : decodeTableWord 16 0x0014 = some (.dec8 1#4 0#64) := by decide

/-- The two assembly examples of 30_encoding.md R47. -/
theorem test_assemble_enc16 : assemble (.enc .w16 9999) = some ⟨0x0001#16, 0x270F#64⟩ := by decide
theorem test_assemble_dec32 : assemble (.dec .w32 [0x99#8]) = some ⟨0x0016#16, 0x99#64⟩ := by decide

theorem test_readLine_alias :
    readLine "ToUint16([0x12, 0x3A]) ; P4".toList = some (.dec .w16 [0x12#8, 0x3A#8]) := by decide
theorem test_writeResult_decimal : writeResult (.dec .w16 [0x12#8, 0x39#8]) 1239#64 = "1239".toList := by
  decide

/-! ### One operation each, 95_test_vectors.md §1 and §2 -/

theorem test_enc8_255 : lastResponse (exec (.enc8 255#64) (blockWith 1 true)) = some 0x55#64 := by
  decide
theorem test_enc8_highDataIgnored :
    lastResponse (exec (.enc8 0xFFFFFFFFFFFFFF37#64) (blockWith 1 true)) = some 0x55#64 := by decide
theorem test_enc16_65535 :
    lastResponse (exec (.enc16 65535#64) (blockWith 1 true)) = some 0x5535#64 := by decide
theorem test_enc16_100 :
    lastResponse (exec (.enc16 100#64) (blockWith 1 true)) = some 0x0100#64 := by decide
theorem test_enc32_123456789 :
    lastResponse (exec (.enc32 123456789#64) (blockWith 1 true)) = some 0x23456789#64 := by decide
theorem test_enc32_max :
    lastResponse (exec (.enc32 4294967295#64) (blockWith 1 true)) = some 0x94967295#64 := by decide
theorem test_enc64_1234567890123456 :
    lastResponse (exec (.enc64 0x000462D53C8ABAC0#64) (blockWith 1 true)) =
      some 0x1234567890123456#64 := by decide
theorem test_enc64_bit63 :
    lastResponse (exec (.enc64 0x8000000000000000#64) (blockWith 1 true)) =
      some 0x3372036854775808#64 := by decide
theorem test_dec8_lane0Only :
    lastResponse (exec (.dec8 1#4 0xFFFFFFFFFFFFFF42#64) (blockWith 1 true)) = some 42#64 := by decide
theorem test_dec8_9A : lastResponse (exec (.dec8 1#4 0x9A#64) (blockWith 1 true)) = some 0#64 := by
  decide
theorem test_dec16_5535 :
    lastResponse (exec (.dec16 2#4 0x5535#64) (blockWith 1 true)) = some 5535#64 := by decide
theorem test_dec16_ignoredLaneNotChecked :
    lastResponse (exec (.dec16 1#4 0xFF12#64) (blockWith 1 true)) = some 12#64 := by decide
theorem test_dec32_len3 :
    lastResponse (exec (.dec32 3#4 0x010000#64) (blockWith 1 true)) = some 10000#64 := by decide
theorem test_dec32_lastNibbleInvalid :
    lastResponse (exec (.dec32 4#4 0x1234567A#64) (blockWith 1 true)) = some 0#64 := by decide
theorem test_dec64_6744073709551615 :
    lastResponse (exec (.dec64 8#4 0x6744073709551615#64) (blockWith 1 true)) =
      some 6744073709551615#64 := by decide
theorem test_dec64_weight14 :
    lastResponse (exec (.dec64 8#4 0x0100000000000000#64) (blockWith 1 true)) =
      some 100000000000000#64 := by decide

/-! ### One step: 70_reset_and_hazards.md R81, R83, R84 and 95_test_vectors.md §2.3 -/

theorem test_step_combinational : shown (step (presented 0 0x0016#16 0x99#64)) = some 99#64 := by decide
theorem test_step_pipelined_notYet : shown (step (presented 1 0x0016#16 0x99#64)) = none := by decide
theorem test_step_presentsDue :
    shown (step { blockWith 2 true with inFlight := [⟨99#64, 1⟩, ⟨5#64, 2⟩] }) = some 99#64 := by decide
theorem test_step_reset_discards :
    (match step { presented 2 0x0000#16 1#64 with
        pins := ⟨0x0000#16, 1#64, true, true, false⟩, inFlight := [⟨99#64, 1⟩] } with
      | .next t => t.inFlight == [] && !t.respValid && t.observed == []
      | _ => false) = true := by decide
theorem test_step_refuses_decodeLen :
    refusal (step (presented 1 0x0024#16 0#64)) = some (.reservedEncoding .decodeLen) := by decide
theorem test_step_refuses_rsv1 :
    refusal (step (presented 0 0x8003#16 0#64)) = some (.reservedEncoding .rsv1) := by decide
theorem test_firstStepAfterReset_runs :
    lastResponse (exec (.enc8 99#64) (State.reset.withFetchWord 80 0x630000).beginEdge) =
      some 0x99#64 := by decide

/-- From reset, at whatever `LATENCY` the implementation has, the next step runs the first CTRL word of each row. -/
theorem test_everyRowRunsAfterReset :
    (opcodeTable.all fun row =>
      match step (State.reset.withFetchWord 16 row.pattern.toNat) with
      | .next _ => true
      | _ => false) = true := by decide
/-- Polarity is the level on the wire only: an active-low reset is asserted at level 0 (70_reset_and_hazards.md R81). -/
theorem test_rstLevel_activeLow :
    State.rstLevel { blockWith 1 true with params := ⟨1, ⟨false, true⟩⟩ } = true := by decide

/-! ### Witnesses: for each obligation with hypotheses, a case that meets all of them -/

theorem witness_DecodeOfEncode : (Instr.dec32 4#4 0x12345678#64).wellFormed = true := by decide

theorem witness_EncodeOfDecode :
    decode ⟨0x0046#16, 0x12345678#64⟩ = .ok (.dec32 4#4 0x12345678#64) := by rfl

theorem witness_RunsExactlyTheWellFormed :
    ((presented 3 0x0087#16 1#64).accepting = true ∧
      wfCtrl (presented 3 0x0087#16 1#64).pins.ctrl = true) ∧
    ((presented 3 0x0097#16 1#64).accepting = true ∧
      wfCtrl (presented 3 0x0097#16 1#64).pins.ctrl = false) := by decide

theorem witness_OpcodeMapDecides : wfCtrl 0x0087#16 = true ∧ wfCtrl 0x0097#16 = false := by decide

theorem witness_ReservedKindsAreRefusedByName :
    (presented 0 0x0100#16 0#64).accepting = true ∧ ctrlRsv1 0x0100#16 ≠ 0#8 ∧
    (ctrlRsv1 0x0008#16 = 0#8 ∧ ctrlRsv0 0x0008#16 = true) ∧
    (ctrlRsv1 0x0010#16 = 0#8 ∧ ctrlRsv0 0x0010#16 = false ∧ ctrlDir 0x0010#16 = false ∧
      ctrlLen 0x0010#16 ≠ 0#4) ∧
    (ctrlRsv1 0x0024#16 = 0#8 ∧ ctrlRsv0 0x0024#16 = false ∧ ctrlDir 0x0024#16 = true ∧
      2 ^ (ctrlWidth 0x0024#16).toNat < (ctrlLen 0x0024#16).toNat) := by decide

theorem witness_AssembledLineDecodes :
    255 < 2 ^ Width.bits .w8 ∧ 2 ^ Width.bits .w8 ≤ 256 ∧
    [0x12#8, 0x34#8].length ≤ Width.bytes .w16 ∧
    Width.bytes .w16 < [0x12#8, 0x34#8, 0x56#8].length := by decide

theorem witness_EncodeIgnoresHighData :
    (0xFFFFFFFFFFFFFF37#64).toNat % 2 ^ Width.bits .w8 = (0x37#64).toNat % 2 ^ Width.bits .w8 := by
  decide

theorem witness_DecodeIgnoresHighLanes :
    ∀ l < (1#4).toNat, lane 0xFF12#64 l = lane 0x12#64 l := by decide

theorem witness_BytesLieInLanes : (List.replicate 8 0x99#8).length ≤ 8 ∧ 7 ≤ 7 := by decide

theorem witness_ResultIsAssembled : 8 ≤ Width.bytes .w64 ∧ (8#4).toNat ≤ Width.bytes .w64 := by decide

theorem witness_HighDigitsAreDroppedSilently :
    (55#64).toNat % 2 ^ Width.bits .w8 =
      (255#64).toNat % 2 ^ Width.bits .w8 % 10 ^ Width.digits .w8 := by decide

theorem witness_EncoderOutputProperties :
    99 < 10 ^ Width.digits .w8 ∧ [0x99#8].length = Width.bytes .w8 ∧ validBytes [0x99#8] = true := by
  decide

theorem witness_PaddingByPosition :
    [0x12#8].length ≤ 2 ∧ [0x12#8, 0x34#8].length = 2 ∧ 1 ≤ 2 := by decide

theorem witness_ValidityOfEveryNibble :
    [0x9A#8].length ≤ 2 ∧ ∀ l < 1, lane 0xFF12#64 l = lane 0x12#64 l := by decide

theorem witness_ReassemblyByPosition : (List.replicate 8 0x99#8).length ≤ 8 := by decide

theorem witness_AccumulationChainsAgree :
    (List.replicate 8 0xFF#8).length = Width.bytes .w64 := by decide

theorem witness_InvalidNibblePoisons :
    (2#4).toNat ≤ Width.bytes .w16 ∧ ∃ j < 2 * (2#4).toNat, 9 < nibbleAt 0x090A#64 j :=
  ⟨by decide, 0, by decide, by decide⟩

theorem witness_DecodeResultFitsWidth :
    (List.replicate 8 0x99#8).length = Width.bytes .w64 ∧
    validBytes (List.replicate 8 0x99#8) = true := by decide

theorem witness_CodecLaws :
    99 ≤ 10 ^ Width.digits .w8 - 1 ∧ 255 < 2 ^ Width.bits .w8 ∧
    ([0x99#8].length = Width.bytes .w8 ∧ validBytes [0x99#8] = true) ∧
    ([0x9A#8].length ≤ Width.bytes .w16 ∧ validBytes [0x9A#8] = false) ∧
    (0x137#64).toNat % 2 ^ Width.bits .w8 = (0x37#64).toNat % 2 ^ Width.bits .w8 ∧
    ∀ l < 1, lane 0xFF12#64 l = lane 0x12#64 l := by decide

theorem witness_RoundTripThroughBlock : (8#4).toNat = Width.bytes .w64 := by decide

theorem witness_IllFormedInstrIsRefused : (Instr.dec64 15#4 0#64).wellFormed = false := by decide

theorem witness_DecodeLengths :
    (1#4).toNat ≤ 1 ∧ 2 ≤ (2#4).toNat ∧ (2#4).toNat ≤ 2 ∧ 3 ≤ (3#4).toNat ∧ (4#4).toNat ≤ 4 ∧
    5 ≤ (5#4).toNat ∧ (8#4).toNat ≤ 8 ∧ 9 ≤ (9#4).toNat := by decide

theorem witness_EveryOperationResponds : (Instr.dec64 8#4 0x9999999999999999#64).wellFormed = true := by
  decide

theorem witness_StepRunsDecoded :
    (presented 2 0x0087#16 0x99#64).accepting = true ∧
    decode (presented 2 0x0087#16 0x99#64).request = .ok (.dec64 8#4 0x99#64) := ⟨rfl, rfl⟩

theorem witness_FetchWordIsRun : decodeTableWord 16 0x0087 = some (.dec64 8#4 0#64) := by decide

/-- A pipelined block with two responses in flight, the first due at the next edge, and a request on its inputs. -/
def busy (synchronous rst pulse : Bool) : State :=
  { blockWith 3 synchronous with
    pins := ⟨0x0016#16, 0x99#64, true, rst, pulse⟩
    upcoming := [⟨0x0000#16, 7#64, true, false, false⟩]
    inFlight := [⟨1#64, 1⟩, ⟨2#64, 3⟩]
    observed := [9#64] }

theorem busy_pipelineOk (synchronous rst pulse : Bool) : (busy synchronous rst pulse).PipelineOk :=
  ⟨by decide +revert, by decide +revert⟩

theorem witness_ResetDiscardsEverything :
    (1 ≤ (busy true true false).params.latency ∧ (busy true true false).pins.rst = true) ∧
    (blockWith 0 true).params.latency = 0 := by decide

theorem witness_ResetBetweenEdges :
    1 ≤ (busy false false true).params.latency ∧ (busy false false true).pins.rst = false ∧
    (busy false false true).pins.rstPulse = true ∧
    (busy false false true).params.resetKind.synchronous = false := by decide

theorem witness_ResetBetweenEdges_synchronous :
    1 ≤ (busy true false true).params.latency ∧ (busy true false true).pins.rst = false ∧
    (busy true false true).pins.rstPulse = true ∧
    (busy true false true).params.resetKind.synchronous = true := by decide

theorem witness_RequestAcceptance :
    (busy true false false).PipelineOk ∧ 1 ≤ (busy true false false).params.latency ∧
    (busy true false false).pins.noReset ∧ (busy true false false).pins.reqValid = true ∧
    wfCtrl (busy true false false).pins.ctrl = true :=
  ⟨busy_pipelineOk _ _ _, by decide, ⟨rfl, rfl⟩, rfl, by decide⟩

theorem witness_RequestAcceptance_noRequest :
    (blockWith 1 true).PipelineOk ∧ 1 ≤ (blockWith 1 true).params.latency ∧
    (blockWith 1 true).pins.noReset ∧ (blockWith 1 true).pins.reqValid = false :=
  ⟨⟨by decide, by decide⟩, by decide, ⟨rfl, rfl⟩, rfl⟩

theorem witness_CombinationalResponse :
    (presented 0 0x0016#16 0x99#64).PipelineOk ∧ (presented 0 0x0016#16 0x99#64).params.latency = 0 ∧
    wfCtrl (presented 0 0x0016#16 0x99#64).pins.ctrl = true :=
  ⟨⟨by decide, by decide⟩, rfl, by decide⟩

theorem witness_OutputsShowWhatIsDue :
    (busy true false false).PipelineOk ∧ 1 ≤ (busy true false false).params.latency ∧
    (busy true false false).pins.noReset ∧ (∃ t, step (busy true false false) = .next t) ∧
    (∃ p ∈ (busy true false false).inFlight, p.wait = 1) :=
  ⟨busy_pipelineOk _ _ _, by decide, ⟨rfl, rfl⟩, ⟨_, rfl⟩, by decide⟩

theorem witness_OutputsShowWhatIsDue_noneDue :
    (blockWith 1 true).PipelineOk ∧ 1 ≤ (blockWith 1 true).params.latency ∧
    (blockWith 1 true).pins.noReset ∧ (∃ t, step (blockWith 1 true) = .next t) ∧
    (∀ p ∈ (blockWith 1 true).inFlight, p.wait ≠ 1) :=
  ⟨⟨by decide, by decide⟩, by decide, ⟨rfl, rfl⟩, ⟨_, rfl⟩, by decide⟩

theorem witness_ResponseAfterLatency :
    (busy true false false).PipelineOk ∧ (busy true false false).accepting = true ∧
    wfCtrl (busy true false false).pins.ctrl = true ∧
    ∀ p ∈ (busy true false false).upcoming.take (busy true false false).params.latency,
      p.noReset ∧ (p.reqValid = true → wfCtrl p.ctrl = true) :=
  ⟨busy_pipelineOk _ _ _, rfl, by decide, by simp [busy, Pins.noReset]; decide⟩

theorem witness_StepKeepsPipelineOk :
    (busy true false false).PipelineOk ∧ ∃ t, step (busy true false false) = .next t :=
  ⟨busy_pipelineOk _ _ _, _, rfl⟩

theorem witness_AtMostLatencyInFlight : (busy true false false).PipelineOk := busy_pipelineOk _ _ _

theorem witness_StepKeepsShownResponse :
    (∃ t, step { busy true false false with respValid := true, result := 9#64 } = .next t) ∧
    State.ShownOk { busy true false false with respValid := true, result := 9#64 } :=
  ⟨⟨_, rfl⟩, fun _ => rfl⟩

theorem witness_ParametersAndObservationPersist : ∃ t, step (busy true false false) = .next t :=
  ⟨_, rfl⟩

theorem witness_FirstRequestAfterReset : wfCtrl 0x0087#16 = true := by decide

/-- A request, a gap and a request at the widest decode. -/
def gappedRun : List Pins :=
  [⟨0x0002#16, 12345678#64, true, false, false⟩, ⟨0xFFFF#16, 0#64, false, false, false⟩,
   ⟨0x0087#16, 0x99#64, true, false, false⟩]

theorem witness_RunObservation :
    (blockWith 2 true).inFlight = [] ∧
    ∀ p ∈ gappedRun, p.noReset ∧ (takes (blockWith 2 true).params p = true → wfCtrl p.ctrl = true) :=
  ⟨rfl, by simp [gappedRun, Pins.noReset]; decide⟩

theorem witness_RunWithReservedRequestIsRefused :
    (blockWith 0 true).inFlight = [] ∧ (∀ p ∈ gappedRun, p.noReset) ∧
    ∃ p ∈ gappedRun, takes (blockWith 0 true).params p = true ∧ wfCtrl p.ctrl = false :=
  ⟨rfl, by simp [gappedRun, Pins.noReset], by decide⟩

end Sys2Proof.Tests
end

/-!
PROOFS of the family `00_scope.md`: the parameters (R7) and a reset between two edges (R81). A pulse on RST between two edges
is read once, when the edge begins; nothing after that sees it, because the requester drives new inputs at the end of the step.
-/

namespace Sys2Proof.Machine

/-! ### The observation after presenting -/

/-- Presenting adds at most one response to the observation (70_reset_and_hazards.md R84, R86). -/
theorem State.present_observed_cases (s : State) :
    s.present.observed = s.observed ∨ ∃ v, s.present.observed = s.observed ++ [v] := by
  obtain ⟨v, later, -, hp⟩ | ⟨-, hp⟩ := s.present_cases
  · exact .inr ⟨v, by rw [hp]⟩
  · exact .inl (by rw [hp, State.showNothing_observed])

/-- Settles O49: each of the three forms of a step ends with `resetEdge` or with one `present`. -/
theorem parametersAndObservationPersist : Obligations.ParametersAndObservationPersist := by
  intro s t h
  obtain ⟨-, rfl⟩ | ⟨-, i, v, -, -, rfl⟩ | ⟨-, -, rfl⟩ := step_cases h
  · exact ⟨s.resetEdge_params, .inl s.resetEdge_observed⟩
  · exact ⟨by simp, by simpa using (s.beginEdge.respond v).present_observed_cases⟩
  · exact ⟨by simp, by simpa using s.beginEdge.present_observed_cases⟩

/-! ### The same state without the pulse -/

/-- `s` with no reset pulse since the last edge (log 7). -/
def State.withoutPulse (s : State) : State := { s with pins := { s.pins with rstPulse := false } }

@[simp] theorem State.withoutPulse_params (s : State) : s.withoutPulse.params = s.params := rfl

@[simp] theorem State.withoutPulse_pins (s : State) :
    s.withoutPulse.pins = { s.pins with rstPulse := false } := rfl

theorem State.withoutPulse_respond (s : State) (v : Word) :
    s.withoutPulse.respond v = (s.respond v).withoutPulse := rfl

theorem State.withoutPulse_present (s : State) :
    s.withoutPulse.present = s.present.withoutPulse := by
  obtain ⟨v, later, hq, hp⟩ | ⟨hq, hp⟩ := s.present_cases
  · rw [hp, State.present_due (s := s.withoutPulse) hq]; rfl
  · obtain ⟨v, later, hq', -⟩ | ⟨-, hp'⟩ := s.withoutPulse.present_cases
    · exact absurd rfl (hq ⟨v, 0⟩ later hq')
    · rw [hp, hp']; rfl

/-- The requester's next inputs do not depend on a past pulse. -/
theorem State.withoutPulse_driveNext (s : State) : s.withoutPulse.driveNext = s.driveNext := by
  cases h : s.upcoming <;> simp [State.driveNext, State.withoutPulse, h]

@[simp] theorem State.withoutPulse_endEdge (s : State) : s.withoutPulse.endEdge = s.endEdge := by
  simp only [State.endEdge, State.withoutPulse_present, State.withoutPulse_driveNext]

/-! ### A request run without the pulse -/

theorem decodeOp_withoutPulse (w : Width) (len : BitVec 4) (data : Word) (s : State) :
    decodeOp w len data s.withoutPulse = andThen (decodeOp w len data s) State.withoutPulse := by
  unfold decodeOp
  split <;> rfl

/-- No operation reads or changes the pulse. -/
theorem exec_withoutPulse (i : Instr) (s : State) :
    exec i s.withoutPulse = andThen (exec i s) State.withoutPulse := by
  cases i with
  | enc8 data | enc16 data | enc32 data | enc64 data => rfl
  | dec8 len data | dec16 len data | dec32 len data | dec64 len data =>
    exact decodeOp_withoutPulse _ len data s

theorem andThen_exec_withoutPulse_endEdge (i : Instr) (s : State) :
    andThen (exec i s.withoutPulse) State.endEdge = andThen (exec i s) State.endEdge := by
  rw [exec_withoutPulse]
  cases exec i s with
  | next t => exact congrArg Host.Outcome.next t.withoutPulse_endEdge
  | fault r => rfl
  | refused r => rfl

/-- With no reset at the edge a step sees the pulse only through `beginEdge`: two states that agree after it, but for the pulse
itself, take the same step. -/
theorem step_eq_of_beginEdge {s u : State} (hrst : s.pins.rst = false)
    (hbegin : u.beginEdge = s.beginEdge.withoutPulse) : step s = step u := by
  have hparams : u.params = s.params := by simpa using congrArg State.params hbegin
  have hpins : u.pins = { s.pins with rstPulse := false } := by
    simpa using congrArg State.pins hbegin
  have hreset : u.resetAtEdge = s.resetAtEdge := by simp [State.resetAtEdge, hparams, hpins]
  have hfetch : u.fetch = s.fetch := by simp [State.fetch, State.request, hpins]
  have haccept : u.accepting = s.accepting := by simp [State.accepting, hreset, hparams, hpins]
  have hnone : s.resetAtEdge = false := by simp [State.resetAtEdge, hrst]
  cases ha : s.accepting with
  | true =>
    rw [step_of_request ha, step_of_request (haccept.trans ha)]
    unfold runRequest
    rw [hfetch, hbegin]
    cases s.fetch with
    | error why => rfl
    | ok i => exact (andThen_exec_withoutPulse_endEdge i s.beginEdge).symm
  | false =>
    rw [step_of_idle hnone ha, step_of_idle (hreset.trans hnone) (haccept.trans ha), hbegin,
      State.withoutPulse_endEdge]

/-! ### What the pulse does when the edge begins -/

theorem State.beginEdge_of_resetBetween {s : State} (h : s.resetBetween = true) :
    s.beginEdge = s.discard := by
  simp [State.beginEdge, h]

theorem State.beginEdge_of_not_resetBetween {s : State} (h : s.resetBetween = false) :
    s.beginEdge = s.age := by
  simp [State.beginEdge, h]

/-- Settles O40: a synchronous block ages its queue with the pulse as without it, and an asynchronous one begins the edge with
an empty queue, which ageing leaves empty. -/
theorem resetBetweenEdges : Obligations.ResetBetweenEdges := by
  intro s hlatency hrst hpulse
  refine ⟨fun hsync => step_eq_of_beginEdge hrst ?_, fun hasync => step_eq_of_beginEdge hrst ?_⟩
  · have hbetween : s.resetBetween = false := by simp [State.resetBetween, hsync]
    rw [State.beginEdge_of_not_resetBetween hbetween, State.beginEdge_of_not_resetBetween rfl]
    rfl
  · have hbetween : s.resetBetween = true := by
      simp [State.resetBetween, hpulse, hasync, Nat.one_le_iff_ne_zero.mp hlatency]
    rw [State.beginEdge_of_resetBetween hbetween, State.beginEdge_of_not_resetBetween rfl]
    rfl

end Sys2Proof.Machine

/-!
PROOFS of the family `10_state.md`: the response of every operation as a closed form of its request (R12), and the in-flight
queue (R19, R20). The meanings go through digit lists, bytes and lanes, most significant byte first; the closed forms are sums
over nibbles, units first. `sum_bytes_eq_sum_nibbles` turns the one sum into the other, for both directions.
-/

namespace Sys2Proof

/-! ### An instruction by its direction and width -/

theorem Width.digits_eq (w : Width) : w.digits = 2 * w.bytes := by cases w <;> rfl

@[simp] theorem Width.ofCode_code (w : Width) : Width.ofCode w.code = w := by cases w <;> rfl

theorem Instr.eq_encInstr_or_decInstr (i : Instr) :
    (∃ w data, i = encInstr w data) ∨ ∃ w len data, i = decInstr w len data := by
  cases i with
  | enc8 data => exact .inl ⟨.w8, data, rfl⟩
  | enc16 data => exact .inl ⟨.w16, data, rfl⟩
  | enc32 data => exact .inl ⟨.w32, data, rfl⟩
  | enc64 data => exact .inl ⟨.w64, data, rfl⟩
  | dec8 len data => exact .inr ⟨.w8, len, data, rfl⟩
  | dec16 len data => exact .inr ⟨.w16, len, data, rfl⟩
  | dec32 len data => exact .inr ⟨.w32, len, data, rfl⟩
  | dec64 len data => exact .inr ⟨.w64, len, data, rfl⟩

@[simp] theorem Instr.wellFormed_decInstr (w : Width) (len : BitVec 4) (data : Word) :
    (decInstr w len data).wellFormed = decide (len.toNat ≤ w.bytes) := by cases w <;> rfl

/-! ### The fields of an encoding's CTRL (30_encoding.md R34, R43) -/

@[simp] theorem encode_encInstr (w : Width) (data : Word) :
    encode (encInstr w data) = ⟨w.code.setWidth 16, data⟩ := by cases w <;> rfl

@[simp] theorem encode_decInstr (w : Width) (len : BitVec 4) (data : Word) :
    encode (decInstr w len data) = ⟨decCtrl w len, data⟩ := by cases w <;> rfl

@[simp] theorem ctrlDir_encCtrl (w : Width) : ctrlDir (w.code.setWidth 16) = false := by
  cases w <;> rfl

@[simp] theorem ctrlWidth_encCtrl (w : Width) : ctrlWidth (w.code.setWidth 16) = w.code := by
  cases w <;> rfl

@[simp] theorem ctrlDir_decCtrl (w : Width) (len : BitVec 4) : ctrlDir (decCtrl w len) = true := by
  revert len; cases w <;> decide

@[simp] theorem ctrlWidth_decCtrl (w : Width) (len : BitVec 4) :
    ctrlWidth (decCtrl w len) = w.code := by
  revert len; cases w <;> decide

@[simp] theorem ctrlLen_decCtrl (w : Width) (len : BitVec 4) : ctrlLen (decCtrl w len) = len := by
  revert len; cases w <;> decide

end Sys2Proof

namespace Sys2Proof.Machine

/-! ### From bytes, most significant first, to nibbles, units first -/

theorem getD_map_range {α : Type} (f : Nat → α) (d : α) {n i : Nat} (h : i < n) :
    ((List.range n).map f).getD i d = f i := by
  rw [List.getD_eq_getElem?_getD, List.getElem?_map, List.getElem?_range h]; rfl

theorem sum_range_reflect (f : Nat → Nat) (n : Nat) :
    ((List.range n).map fun i => f (n - 1 - i)).sum = ((List.range n).map f).sum := by
  have hreverse : ((List.range n).map fun i => f (n - 1 - i)) = ((List.range n).map f).reverse :=
    List.ext_getElem (by simp only [List.length_map, List.length_range, List.length_reverse])
      fun i _ _ => by
        simp only [List.getElem_map, List.getElem_range, List.getElem_reverse, List.length_map,
          List.length_range]
  rw [hreverse, List.sum_reverse]

theorem sum_range_add_one (f : Nat → Nat) (n : Nat) :
    ((List.range (n + 1)).map f).sum = ((List.range n).map f).sum + f n := by
  rw [List.range_succ, List.map_append, List.sum_append, List.map_singleton, List.sum_singleton]

theorem sum_range_two_mul (f : Nat → Nat) (n : Nat) :
    ((List.range (2 * n)).map f).sum =
      ((List.range n).map fun l => f (2 * l) + f (2 * l + 1)).sum := by
  induction n with
  | zero => rfl
  | succ n ih => rw [Nat.mul_succ, sum_range_add_one, sum_range_add_one, ih, sum_range_add_one,
      Nat.add_assoc]

/-- If byte i contributes the terms of nibbles 2(n−1−i) and 2(n−1−i)+1, the sum over the bytes is the sum over the nibbles. -/
theorem sum_bytes_eq_sum_nibbles {n : Nat} {g f : Nat → Nat}
    (h : ∀ i < n, g i = f (2 * (n - 1 - i)) + f (2 * (n - 1 - i) + 1)) :
    ((List.range n).map g).sum = ((List.range (2 * n)).map f).sum := by
  rw [sum_range_two_mul, ← sum_range_reflect fun l => f (2 * l) + f (2 * l + 1)]
  exact congrArg List.sum (List.map_congr_left fun i hi => h i (List.mem_range.mp hi))

/-! ### Lanes and nibbles -/

theorem lane_toNat (x : Word) (l : Nat) : (lane x l).toNat = x.toNat / 2 ^ (8 * l) % 256 := by
  simp [lane, Nat.shiftRight_eq_div_pow]

theorem hiNibble_eq (b : Byte) : hiNibble b = b.toNat / 16 := by
  have hb := b.isLt
  simp only [hiNibble, BitVec.extractLsb'_toNat, Nat.shiftRight_eq_div_pow]
  omega

theorem loNibble_eq (b : Byte) : loNibble b = b.toNat % 16 := by
  simp [loNibble]

theorem sixteen_pow_two_mul (l : Nat) : 16 ^ (2 * l) = 2 ^ (8 * l) := by
  rw [Nat.pow_mul, Nat.pow_mul]

theorem nibbleAt_two_mul (x : Word) (l : Nat) : nibbleAt x (2 * l) = loNibble (lane x l) := by
  rw [loNibble_eq, lane_toNat, nibbleAt, sixteen_pow_two_mul]
  omega

theorem nibbleAt_two_mul_add_one (x : Word) (l : Nat) :
    nibbleAt x (2 * l + 1) = hiNibble (lane x l) := by
  rw [hiNibble_eq, lane_toNat, nibbleAt, Nat.pow_succ, sixteen_pow_two_mul, ← Nat.div_div_eq_div_mul]
  omega

/-- Padded nibble 2l is the low nibble of lane l, or of the zero byte that stands there (41_decode.md R59). -/
theorem paddedNibble_two_mul (L : Nat) (x : Word) (l : Nat) :
    paddedNibble L x (2 * l) = loNibble (if l < L then lane x l else 0#8) := by
  unfold paddedNibble
  split
  · rw [if_pos (by omega), nibbleAt_two_mul]
  · rw [if_neg (by omega)]; rfl

theorem paddedNibble_two_mul_add_one (L : Nat) (x : Word) (l : Nat) :
    paddedNibble L x (2 * l + 1) = hiNibble (if l < L then lane x l else 0#8) := by
  unfold paddedNibble
  split
  · rw [if_pos (by omega), nibbleAt_two_mul_add_one]
  · rw [if_neg (by omega)]; rfl

/-! ### The response of an encode -/

theorem decimalDigit_lt (V j : Nat) : decimalDigit V j < 10 := Nat.mod_lt _ (by decide)

theorem extractDigits_getD {V k j : Nat} (h : j < k) :
    (extractDigits V k).getD j 0 = decimalDigit V j := by
  induction k generalizing V j with
  | zero => cases h
  | succ k ih =>
    cases j with
    | zero => simp [extractDigits, decimalDigit]
    | succ j =>
      have hdiv : decimalDigit (V / 10) j = decimalDigit V (j + 1) := by
        rw [decimalDigit, decimalDigit, Nat.div_div_eq_div_mul, Nat.pow_succ']
      rw [← hdiv, ← ih (Nat.lt_of_succ_lt_succ h)]; rfl

theorem packPair_toNat {t u : Nat} (ht : t < 16) (hu : u < 16) :
    (packPair t u).toNat = 16 * t + u := by
  rw [packPair, BitVec.toNat_ofNat]; omega

@[simp] theorem encBytes_length (w : Width) (V : Nat) : (encBytes w V).length = w.bytes := by
  simp [encBytes, packDigits]

/-- P[i] of 40_encode.md R51 and R53: the digit pair of its position. -/
theorem encBytes_getD (w : Width) (V : Nat) {i : Nat} (h : i < w.bytes) :
    (encBytes w V).getD i 0#8 =
      packPair (decimalDigit V (2 * (w.bytes - 1 - i) + 1)) (decimalDigit V (2 * (w.bytes - 1 - i))) := by
  have hk := w.digits_eq
  rw [encBytes, packDigits, getD_map_range _ _ h, extractDigits_getD (by omega), extractDigits_getD (by omega)]

/-- `Σ P[i]·256^(n−1−i) = Σ d[j]·16^j` (40_encode.md R53). -/
theorem encBytes_sum (w : Width) (V : Nat) :
    ((List.range w.bytes).map fun i =>
      ((encBytes w V).getD i 0#8).toNat * 256 ^ (w.bytes - 1 - i)).sum =
    ((List.range w.digits).map fun j => decimalDigit V j * 16 ^ j).sum := by
  rw [w.digits_eq]
  refine sum_bytes_eq_sum_nibbles fun i hi => ?_
  have hlo := decimalDigit_lt V (2 * (w.bytes - 1 - i))
  have hhi := decimalDigit_lt V (2 * (w.bytes - 1 - i) + 1)
  have hweight : 256 ^ (w.bytes - 1 - i) = 16 ^ (2 * (w.bytes - 1 - i)) :=
    (Nat.pow_mul 16 2 (w.bytes - 1 - i)).symm
  rw [encBytes_getD w V hi, packPair_toNat (by omega) (by omega), hweight, Nat.pow_succ', Nat.add_mul,
    Nat.mul_left_comm, Nat.mul_assoc, Nat.add_comm]

theorem encodeOperand_eq (w : Width) (data : Word) :
    encodeOperand w data = data.toNat % 2 ^ w.bits := by
  simp [encodeOperand]

theorem encResponse_eq (w : Width) (data : Word) :
    encResponse w data = BitVec.ofNat 64 (encodedNumber w data) := by
  rw [encResponse, wordOfBytes, encBytes_length, encBytes_sum, encodeOperand_eq, encodedNumber]

/-! ### The response of a decode -/

@[simp] theorem decodeOperand_length (L : Nat) (data : Word) : (decodeOperand L data).length = L := by
  simp [decodeOperand]

theorem decodeOperand_getD (data : Word) {L i : Nat} (h : i < L) :
    (decodeOperand L data).getD i 0#8 = lane data (L - 1 - i) := by
  rw [decodeOperand, getD_map_range _ _ h]

theorem padBytes_length {n : Nat} {B : List Byte} (h : B.length ≤ n) : (padBytes n B).length = n := by
  simp [padBytes, h]

/-- 41_decode.md R59 by position: zeros first, then the bytes of B. -/
theorem padBytes_getD (n : Nat) (B : List Byte) (i : Nat) :
    (padBytes n B).getD i 0#8 =
      if i < n - B.length then 0#8 else B.getD (i - (n - B.length)) 0#8 := by
  rw [padBytes, List.getD_eq_getElem?_getD, List.getElem?_append, List.length_replicate]
  split
  · rw [List.getElem?_replicate, if_pos (by assumption)]; rfl
  · rw [List.getD_eq_getElem?_getD]

theorem padBytes_decodeOperand_getD (data : Word) {n L i : Nat} (hL : L ≤ n) (hi : i < n) :
    (padBytes n (decodeOperand L data)).getD i 0#8 =
      if n - 1 - i < L then lane data (n - 1 - i) else 0#8 := by
  rw [padBytes_getD, decodeOperand_length]
  by_cases h : n - 1 - i < L
  · rw [if_neg (by omega), if_pos h, decodeOperand_getD data (by omega)]
    congr 1; omega
  · rw [if_pos (by omega), if_neg h]

/-- The sum of 41_decode.md R62 over the padded bytes is the sum of the padded nibbles by weight. -/
theorem reassemble_padBytes_decodeOperand (data : Word) {n L : Nat} (hL : L ≤ n) :
    reassemble (padBytes n (decodeOperand L data)) =
      ((List.range (2 * n)).map fun j => paddedNibble L data j * 10 ^ j).sum := by
  rw [reassemble, padBytes_length (by simpa using hL)]
  refine sum_bytes_eq_sum_nibbles fun i hi => ?_
  rw [padBytes_decodeOperand_getD data hL hi, paddedNibble_two_mul, paddedNibble_two_mul_add_one,
    Nat.add_comm]

theorem validBytes_iff (P : List Byte) :
    validBytes P = true ↔ ∀ b ∈ P, hiNibble b ≤ 9 ∧ loNibble b ≤ 9 := by
  simp [validBytes, validDigit]

/-- Padding bytes always pass (41_decode.md R61). -/
@[simp] theorem validBytes_padBytes (n : Nat) (B : List Byte) :
    validBytes (padBytes n B) = validBytes B := by
  have hzero : ∀ m, validBytes (List.replicate m 0#8) = true := fun m =>
    (validBytes_iff _).mpr fun b hb => by rw [List.eq_of_mem_replicate hb]; decide
  have happend : validBytes (padBytes n B) =
      (validBytes (List.replicate (n - B.length) 0#8) && validBytes B) := List.all_append
  rw [happend, hzero, Bool.true_and]

theorem forall_mem_decodeOperand {p : Byte → Prop} (L : Nat) (data : Word) :
    (∀ b ∈ decodeOperand L data, p b) ↔ ∀ l < L, p (lane data l) := by
  simp only [decodeOperand, List.mem_map, List.mem_range, forall_exists_index, and_imp,
    forall_apply_eq_imp_iff₂]
  refine ⟨fun h l hl => ?_, fun h i hi => h _ (by omega)⟩
  have hlane := h (L - 1 - l) (by omega)
  rwa [show L - 1 - (L - 1 - l) = l by omega] at hlane

/-- A decode's operand is valid exactly when every nibble of its lanes is a digit (41_decode.md R61). -/
theorem validBytes_decodeOperand (L : Nat) (data : Word) :
    validBytes (decodeOperand L data) = true ↔ ∀ j < 2 * L, nibbleAt data j ≤ 9 := by
  rw [validBytes_iff, forall_mem_decodeOperand]
  constructor
  · intro h j hj
    obtain ⟨hhi, hlo⟩ := h (j / 2) (by omega)
    rcases Nat.mod_two_eq_zero_or_one j with hmod | hmod
    · rwa [show j = 2 * (j / 2) by omega, nibbleAt_two_mul]
    · rwa [show j = 2 * (j / 2) + 1 by omega, nibbleAt_two_mul_add_one]
  · intro h l hl
    rw [← nibbleAt_two_mul, ← nibbleAt_two_mul_add_one]
    exact ⟨h _ (by omega), h _ (by omega)⟩

theorem decValue_decodeOperand (data : Word) {w : Width} {L : Nat} (hL : L ≤ w.bytes) :
    decValue w (decodeOperand L data) = decodedNumber w L data := by
  unfold decValue decodedNumber
  simp only [validBytes_padBytes, validBytes_decodeOperand, reassemble_padBytes_decodeOperand data hL,
    w.digits_eq]

theorem decResponse_eq (data : Word) {w : Width} {L : Nat} (hL : L ≤ w.bytes) :
    decResponse w L data = BitVec.ofNat 64 (decodedNumber w L data) := by
  rw [decResponse, wordOfValue, decValue_decodeOperand data hL]

/-! ### Every operation responds -/

theorem responds_encInstr (w : Width) (data : Word) :
    Responds (encInstr w data) (encResponse w data) := by
  intro s
  cases w <;> rfl

theorem exec_decInstr (w : Width) (len : BitVec 4) (data : Word) (s : State) :
    exec (decInstr w len data) s = decodeOp w len data s := by
  cases w <;> rfl

theorem responds_decInstr {w : Width} {len : BitVec 4} (hlen : len.toNat ≤ w.bytes) (data : Word) :
    Responds (decInstr w len data) (decResponse w len.toNat data) := by
  intro s
  rw [exec_decInstr, decodeOp, if_pos hlen]; rfl

theorem expectedResponse_encInstr (w : Width) (data : Word) :
    expectedResponse (encode (encInstr w data)) = encResponse w data := by
  simp [expectedResponse, encResponse_eq]

theorem expectedResponse_decInstr {w : Width} {len : BitVec 4} (hlen : len.toNat ≤ w.bytes)
    (data : Word) :
    expectedResponse (encode (decInstr w len data)) = decResponse w len.toNat data := by
  simp [expectedResponse, decResponse_eq data hlen]

/-- Settles O36: each direction hands over its response, which is the closed form of its request. -/
theorem everyOperationResponds : Obligations.EveryOperationResponds := by
  intro i hwf
  obtain ⟨w, data, rfl⟩ | ⟨w, len, data, rfl⟩ := i.eq_encInstr_or_decInstr
  · rw [expectedResponse_encInstr]
    exact responds_encInstr w data
  · have hlen : len.toNat ≤ w.bytes := by simpa using hwf
    rw [expectedResponse_decInstr hlen]
    exact responds_decInstr hlen data

/-! ### The in-flight queue across an edge -/

theorem State.pipelineOk_of_inFlight_nil {s : State} (h : s.inFlight = []) : s.PipelineOk :=
  ⟨by simp [h], by simp [h]⟩

/-- The queue between the two halves of an edge: as `State.PipelineOk` has it, but the oldest response may be due, and so 0
edges away. -/
structure State.MidEdgeOk (s : State) : Prop where
  within : ∀ p ∈ s.inFlight, p.wait ≤ s.params.latency
  ordered : s.inFlight.Pairwise fun p q => p.wait < q.wait

/-- After ageing, every response is nearer than one taken at this edge will be. -/
theorem State.PipelineOk.beginEdge_wait_lt {s : State} (h : s.PipelineOk) :
    ∀ p ∈ s.beginEdge.inFlight, p.wait < s.params.latency := by
  rw [State.beginEdge_inFlight]
  split
  · simp
  · intro p hp
    obtain ⟨q, hq, rfl⟩ := List.mem_map.mp hp
    obtain ⟨hpos, hle⟩ := h.bounds q hq
    dsimp only
    omega

/-- Ageing keeps the order, since no wait was 0. -/
theorem State.PipelineOk.beginEdge_ordered {s : State} (h : s.PipelineOk) :
    s.beginEdge.inFlight.Pairwise fun p q => p.wait < q.wait := by
  rw [State.beginEdge_inFlight]
  split
  · exact .nil
  · refine List.pairwise_map.mpr (h.ordered.imp_of_mem fun {p q} hp hq hlt => ?_)
    have hpos := (h.bounds p hp).1
    dsimp only
    omega

theorem State.PipelineOk.midEdgeOk_beginEdge {s : State} (h : s.PipelineOk) :
    s.beginEdge.MidEdgeOk :=
  ⟨fun p hp => by
    rw [State.beginEdge_params]
    exact Nat.le_of_lt (h.beginEdge_wait_lt p hp), h.beginEdge_ordered⟩

/-- A response handed to the queue is the farthest of all, `LATENCY` edges away. -/
theorem State.PipelineOk.midEdgeOk_respond {s : State} (h : s.PipelineOk) (v : Word) :
    (s.beginEdge.respond v).MidEdgeOk := by
  constructor
  · intro p hp
    rw [State.respond_inFlight] at hp
    obtain hp | hp := List.mem_append.mp hp
    · exact h.midEdgeOk_beginEdge.within p hp
    · simp [List.mem_singleton.mp hp]
  · rw [State.respond_inFlight, List.pairwise_append]
    refine ⟨h.beginEdge_ordered, List.pairwise_singleton _ _, fun p hp q hq => ?_⟩
    simpa [List.mem_singleton.mp hq] using h.beginEdge_wait_lt p hp

/-- In an ordered queue whose oldest response is not due, none is. -/
theorem wait_pos_of_head {ps : List Pending} (hordered : ps.Pairwise fun p q => p.wait < q.wait)
    (hhead : ∀ p later, ps = p :: later → p.wait ≠ 0) : ∀ p ∈ ps, 1 ≤ p.wait := by
  cases ps with
  | nil => simp
  | cons first later =>
    have hpos := hhead first later rfl
    intro p hp
    obtain rfl | hp := List.mem_cons.mp hp
    · omega
    · have hlt := (List.pairwise_cons.mp hordered).1 p hp
      omega

/-- Only the oldest response can be due, so what is left after presenting is at least one edge away. -/
theorem State.MidEdgeOk.pipelineOk_endEdge {s : State} (h : s.MidEdgeOk) : s.endEdge.PipelineOk := by
  obtain ⟨hwithin, hordered⟩ := h
  obtain ⟨v, later, hq, hp⟩ | ⟨hhead, hp⟩ := s.present_cases
  · have hin : s.endEdge.inFlight = later := by rw [State.endEdge_inFlight, hp]
    rw [hq] at hwithin hordered
    obtain ⟨hfirst, hlater⟩ := List.pairwise_cons.mp hordered
    constructor
    · rw [hin, State.endEdge_params]
      exact fun p hp => ⟨hfirst p hp, hwithin p (List.mem_cons_of_mem _ hp)⟩
    · rwa [hin]
  · have hin : s.endEdge.inFlight = s.inFlight := by
      rw [State.endEdge_inFlight, hp, State.showNothing_inFlight]
    constructor
    · rw [hin, State.endEdge_params]
      exact fun p hp => ⟨wait_pos_of_head hordered hhead p hp, hwithin p hp⟩
    · rwa [hin]

/-- Settles O45: a reset edge empties the queue, and every other step ends an edge on a queue in order. -/
theorem stepKeepsPipelineOk : Obligations.StepKeepsPipelineOk := by
  intro s t hok h
  obtain ⟨-, rfl⟩ | ⟨-, i, v, -, -, rfl⟩ | ⟨-, -, rfl⟩ := step_cases h
  · exact State.pipelineOk_of_inFlight_nil s.resetEdge_inFlight
  · exact (hok.midEdgeOk_respond v).pipelineOk_endEdge
  · exact hok.midEdgeOk_beginEdge.pipelineOk_endEdge

/-- Waits that rise strictly from above `lo` to at most `hi` are no more than there are numbers between. -/
theorem length_le_of_ordered {ps : List Pending} {lo hi : Nat}
    (hordered : ps.Pairwise fun p q => p.wait < q.wait)
    (hbounds : ∀ p ∈ ps, lo < p.wait ∧ p.wait ≤ hi) : ps.length ≤ hi - lo := by
  induction ps generalizing lo with
  | nil => exact Nat.zero_le _
  | cons first later ih =>
    obtain ⟨hfirst, hlater⟩ := List.pairwise_cons.mp hordered
    obtain ⟨hlo, hhi⟩ := hbounds first List.mem_cons_self
    have hlength : later.length ≤ hi - first.wait :=
      ih hlater fun p hp => ⟨hfirst p hp, (hbounds p (List.mem_cons_of_mem _ hp)).2⟩
    rw [List.length_cons]
    omega

/-- Settles O46: the waits of the queue rise strictly from 1 to at most `LATENCY`. -/
theorem atMostLatencyInFlight : Obligations.AtMostLatencyInFlight :=
  fun _ hok => length_le_of_ordered hok.ordered hok.bounds

/-- Settles O48: with nothing in flight the queue is in order, and with RESP_VALID = 0 RESULT is not claimed. -/
theorem resetMeetsInvariants : Obligations.ResetMeetsInvariants :=
  ⟨rfl, rfl, State.pipelineOk_of_inFlight_nil rfl, fun h => absurd h Bool.false_ne_true⟩

end Sys2Proof.Machine

/-!
PROOFS of the family `20_memory.md`: a byte sequence in the lanes of its word (R23). The word is a number in base 256 whose
digits are the bytes, so `sum_mul_pow_lt` bounds it by 2^64 and `sum_mul_pow_digit` reads each lane off as a digit.
-/

namespace Sys2Proof.Machine

/-! ### A sum of weighted digits in any base -/

theorem sum_mul_pow_lt {b n : Nat} {f : Nat → Nat} (hf : ∀ l < n, f l < b) :
    ((List.range n).map fun l => f l * b ^ l).sum < b ^ n := by
  induction n with
  | zero => simp
  | succ n ih =>
    have hlow := ih fun l hl => hf l (Nat.lt_succ_of_lt hl)
    have htop : (f n + 1) * b ^ n ≤ b * b ^ n := Nat.mul_le_mul_right _ (hf n n.lt_succ_self)
    rw [sum_range_add_one, Nat.pow_succ']
    rw [Nat.succ_mul] at htop
    omega

/-- Dividing by b^j and taking the remainder by b gives back digit j. -/
theorem sum_mul_pow_digit {b n j : Nat} {f : Nat → Nat} (hf : ∀ l < n, f l < b) (hj : j < n) :
    ((List.range n).map fun l => f l * b ^ l).sum / b ^ j % b = f j := by
  have hb : 0 < b := Nat.zero_lt_of_lt (hf j hj)
  induction n with
  | zero => cases hj
  | succ n ih =>
    have hlow : ∀ l < n, f l < b := fun l hl => hf l (Nat.lt_succ_of_lt hl)
    rw [sum_range_add_one]
    obtain hjn | rfl := Nat.lt_succ_iff_lt_or_eq.mp hj
    · obtain ⟨c, hc⟩ : b ^ (j + 1) ∣ b ^ n := Nat.pow_dvd_pow b hjn
      have hweight : f n * b ^ n = b ^ j * (b * (f n * c)) := by
        rw [hc, Nat.pow_succ]
        ac_rfl
      rw [hweight, Nat.add_mul_div_left _ _ (Nat.pow_pos hb), Nat.add_mul_mod_self_left]
      exact ih hlow hjn
    · rw [Nat.add_mul_div_right _ _ (Nat.pow_pos hb), Nat.div_eq_of_lt (sum_mul_pow_lt hlow),
        Nat.zero_add, Nat.mod_eq_of_lt (hf j hj)]

/-! ### The word of a byte sequence -/

/-- The big-endian sum of R23, least significant byte first: lane l holds byte m−1−l. -/
theorem sum_bytes_eq_sum_lanes (S : List Byte) :
    ((List.range S.length).map fun i => (S.getD i 0#8).toNat * 256 ^ (S.length - 1 - i)).sum =
      ((List.range S.length).map fun l => (S.getD (S.length - 1 - l) 0#8).toNat * 256 ^ l).sum := by
  rw [← sum_range_reflect fun l => (S.getD (S.length - 1 - l) 0#8).toNat * 256 ^ l]
  refine congrArg List.sum (List.map_congr_left fun i hi => ?_)
  rw [Nat.sub_sub_self (Nat.le_sub_one_of_lt (List.mem_range.mp hi))]

theorem sum_bytes_lt (S : List Byte) :
    ((List.range S.length).map fun i =>
      (S.getD i 0#8).toNat * 256 ^ (S.length - 1 - i)).sum < 256 ^ S.length := by
  rw [sum_bytes_eq_sum_lanes]
  exact sum_mul_pow_lt fun _ _ => BitVec.isLt _

/-- Up to 8 bytes fit the word, so nothing of the sum is lost. -/
theorem wordOfBytes_toNat {S : List Byte} (h : S.length ≤ 8) :
    (wordOfBytes S).toNat =
      ((List.range S.length).map fun i =>
        (S.getD i 0#8).toNat * 256 ^ (S.length - 1 - i)).sum := by
  rw [wordOfBytes, BitVec.toNat_ofNat]
  exact Nat.mod_eq_of_lt
    (Nat.lt_of_lt_of_le (sum_bytes_lt S) (Nat.pow_le_pow_right (by decide) h))

theorem lane_wordOfBytes {S : List Byte} (h : S.length ≤ 8) {l : Nat} (hl : l < S.length) :
    lane (wordOfBytes S) l = S.getD (S.length - 1 - l) 0#8 := by
  apply BitVec.eq_of_toNat_eq
  rw [lane_toNat, wordOfBytes_toNat h, sum_bytes_eq_sum_lanes, Nat.pow_mul]
  exact sum_mul_pow_digit (fun _ _ => BitVec.isLt _) hl

/-- Settles O11: the lanes of the word are its digits in base 256, and the two examples are computed. -/
theorem bytesLieInLanes : Obligations.BytesLieInLanes := by
  refine ⟨fun x l _ => lane_toNat x l, fun S hS => ⟨fun i hi => ?_, wordOfBytes_toNat hS⟩,
    by decide, by decide⟩
  rw [lane_wordOfBytes hS (by omega), Nat.sub_sub_self (Nat.le_sub_one_of_lt hi)]

end Sys2Proof.Machine

/-!
PROOFS of the family `30_encoding.md`: the opcode map and its decoder (R34 to R43), the lines of a request (R47), and what an
operation reads from DATA and leaves in RESULT (R40 to R42). A CTRL word is the number of its five fields (`ctrl_toNat`), so the
words the decoder accepts are the encodings `w.code.setWidth 16` and `decCtrl w len` with `len` at most n, and no others.
-/

namespace Sys2Proof

/-! ### WIDTH and the fields of CTRL -/

theorem Width.bytes_le_eight (w : Width) : w.bytes ≤ 8 := by cases w <;> decide

@[simp] theorem Width.code_ofCode (c : BitVec 2) : (Width.ofCode c).code = c := by
  revert c; decide

/-- n(WIDTH) = 2^WIDTH (30_encoding.md R35, R39). -/
theorem Width.bytes_ofCode (c : BitVec 2) : (Width.ofCode c).bytes = 2 ^ c.toNat := by
  revert c; decide

@[simp] theorem ctrlLen_encCtrl (w : Width) : ctrlLen (w.code.setWidth 16) = 0#4 := by
  cases w <;> rfl

@[simp] theorem ctrlRsv0_encCtrl (w : Width) : ctrlRsv0 (w.code.setWidth 16) = false := by
  cases w <;> rfl

@[simp] theorem ctrlRsv1_encCtrl (w : Width) : ctrlRsv1 (w.code.setWidth 16) = 0#8 := by
  cases w <;> rfl

@[simp] theorem ctrlRsv0_decCtrl (w : Width) (len : BitVec 4) : ctrlRsv0 (decCtrl w len) = false := by
  revert len; cases w <;> decide

@[simp] theorem ctrlRsv1_decCtrl (w : Width) (len : BitVec 4) : ctrlRsv1 (decCtrl w len) = 0#8 := by
  revert len; cases w <;> decide

/-- The five fields of 30_encoding.md R34 make up the whole of CTRL. -/
theorem ctrl_toNat (c : Ctrl) : c.toNat = (ctrlWidth c).toNat + 4 * (ctrlDir c).toNat +
    8 * (ctrlRsv0 c).toNat + 16 * (ctrlLen c).toNat + 256 * (ctrlRsv1 c).toNat := by
  have hc := c.isLt
  simp only [ctrlWidth, ctrlDir, ctrlRsv0, ctrlLen, ctrlRsv1, BitVec.extractLsb'_toNat,
    BitVec.getLsbD, Nat.toNat_testBit, Nat.shiftRight_eq_div_pow]
  omega

/-- Two CTRL words with the same fields are the same word. -/
theorem ctrl_ext {c d : Ctrl} (hwidth : ctrlWidth c = ctrlWidth d) (hdir : ctrlDir c = ctrlDir d)
    (hrsv0 : ctrlRsv0 c = ctrlRsv0 d) (hlen : ctrlLen c = ctrlLen d)
    (hrsv1 : ctrlRsv1 c = ctrlRsv1 d) : c = d :=
  BitVec.eq_of_toNat_eq (by rw [ctrl_toNat c, ctrl_toNat d, hwidth, hdir, hrsv0, hlen, hrsv1])

theorem eq_encCtrl {c : Ctrl} (hrsv1 : ctrlRsv1 c = 0#8) (hrsv0 : ctrlRsv0 c = false)
    (hdir : ctrlDir c = false) (hlen : ctrlLen c = 0#4) :
    c = (Width.ofCode (ctrlWidth c)).code.setWidth 16 :=
  ctrl_ext ((ctrlWidth_encCtrl _).trans (Width.code_ofCode _)).symm
    (hdir.trans (ctrlDir_encCtrl _).symm) (hrsv0.trans (ctrlRsv0_encCtrl _).symm)
    (hlen.trans (ctrlLen_encCtrl _).symm) (hrsv1.trans (ctrlRsv1_encCtrl _).symm)

theorem eq_decCtrl {c : Ctrl} (hrsv1 : ctrlRsv1 c = 0#8) (hrsv0 : ctrlRsv0 c = false)
    (hdir : ctrlDir c = true) : c = decCtrl (Width.ofCode (ctrlWidth c)) (ctrlLen c) :=
  ctrl_ext ((ctrlWidth_decCtrl _ _).trans (Width.code_ofCode _)).symm
    (hdir.trans (ctrlDir_decCtrl _ _).symm) (hrsv0.trans (ctrlRsv0_decCtrl _ _).symm)
    (ctrlLen_decCtrl _ _).symm (hrsv1.trans (ctrlRsv1_decCtrl _ _).symm)

/-! ### The decoder, one check at a time (30_encoding.md R39) -/

section decode
variable {c : Ctrl} (data : Word)

theorem decode_of_rsv1 (hrsv1 : ctrlRsv1 c ≠ 0#8) : decode ⟨c, data⟩ = .error .rsv1 := by
  simp [decode, hrsv1]

theorem decode_of_rsv0 (hrsv1 : ctrlRsv1 c = 0#8) (hrsv0 : ctrlRsv0 c = true) :
    decode ⟨c, data⟩ = .error .rsv0 := by
  simp [decode, hrsv1, hrsv0]

theorem decode_of_encodeLen (hrsv1 : ctrlRsv1 c = 0#8) (hrsv0 : ctrlRsv0 c = false)
    (hdir : ctrlDir c = false) (hlen : ctrlLen c ≠ 0#4) :
    decode ⟨c, data⟩ = .error .encodeLen := by
  simp [decode, hrsv1, hrsv0, hdir, hlen]

theorem decode_of_decodeLen (hrsv1 : ctrlRsv1 c = 0#8) (hrsv0 : ctrlRsv0 c = false)
    (hdir : ctrlDir c = true) (hlen : 2 ^ (ctrlWidth c).toNat < (ctrlLen c).toNat) :
    decode ⟨c, data⟩ = .error .decodeLen := by
  simp [decode, hrsv1, hrsv0, hdir, Width.bytes_ofCode, hlen]

@[simp] theorem decode_encCtrl (w : Width) :
    decode ⟨w.code.setWidth 16, data⟩ = .ok (encInstr w data) := by
  simp [decode]

theorem decode_decCtrl {w : Width} {len : BitVec 4} (hlen : len.toNat ≤ w.bytes) :
    decode ⟨decCtrl w len, data⟩ = .ok (decInstr w len data) := by
  simp [decode, hlen]

/-- All that a successful decode tells: no reserved bit is set, and CTRL is an encode with LEN = 0 or a decode with LEN ≤ n. -/
theorem decode_eq_ok {i : Instr} (h : decode ⟨c, data⟩ = .ok i) :
    ctrlRsv1 c = 0#8 ∧ ctrlRsv0 c = false ∧
    ((ctrlDir c = false ∧ ctrlLen c = 0#4 ∧ i = encInstr (Width.ofCode (ctrlWidth c)) data) ∨
     (ctrlDir c = true ∧ (ctrlLen c).toNat ≤ (Width.ofCode (ctrlWidth c)).bytes ∧
      i = decInstr (Width.ofCode (ctrlWidth c)) (ctrlLen c) data)) := by
  unfold decode at h
  split at h
  · cases h
  · rename_i hrsv1
    split at h
    · cases h
    · rename_i hrsv0
      refine ⟨Decidable.not_not.mp hrsv1, Bool.eq_false_iff.mpr hrsv0, ?_⟩
      split at h
      · rename_i hdir
        split at h
        · exact .inl ⟨hdir, ‹_›, by cases h; rfl⟩
        · cases h
      · rename_i hdir
        split at h
        · exact .inr ⟨Bool.not_eq_false _ ▸ hdir, ‹_›, by cases h; rfl⟩
        · cases h

end decode

/-- Settles O2: each direction's CTRL word decodes by its fields, which the encoding wrote. -/
theorem decodeOfEncode : Obligations.DecodeOfEncode := by
  intro i hwf
  obtain ⟨w, data, rfl⟩ | ⟨w, len, data, rfl⟩ := i.eq_encInstr_or_decInstr
  · rw [encode_encInstr, decode_encCtrl]
  · have hlen : len.toNat ≤ w.bytes := by simpa using hwf
    rw [encode_decInstr, decode_decCtrl data hlen]

@[simp] theorem Instr.wellFormed_encInstr (w : Width) (data : Word) :
    (encInstr w data).wellFormed = true := by cases w <;> rfl

/-- Settles O3: the fields that decoding read make up the whole of CTRL, so encoding writes it back. -/
theorem encodeOfDecode : Obligations.EncodeOfDecode := by
  rintro ⟨c, data⟩ i h
  obtain ⟨hrsv1, hrsv0, ⟨hdir, hlen, rfl⟩ | ⟨hdir, hlen, rfl⟩⟩ := decode_eq_ok data h
  · exact ⟨Instr.wellFormed_encInstr _ _, by rw [encode_encInstr, ← eq_encCtrl hrsv1 hrsv0 hdir hlen]⟩
  · exact ⟨by simpa using hlen, by rw [encode_decInstr, ← eq_decCtrl hrsv1 hrsv0 hdir]⟩

/-! ### The well-formed CTRL words -/

/-- R39's formula, in the terms of the decoder. -/
theorem wfCtrl_iff (c : Ctrl) : wfCtrl c = true ↔ ctrlRsv1 c = 0#8 ∧ ctrlRsv0 c = false ∧
    ((ctrlDir c = false ∧ ctrlLen c = 0#4) ∨
     (ctrlDir c = true ∧ (ctrlLen c).toNat ≤ (Width.ofCode (ctrlWidth c)).bytes)) := by
  have hformula : wfCtrl c = (ctrlRsv1 c == 0#8 && ctrlRsv0 c == false &&
      if ctrlDir c = false then ctrlLen c == 0#4
      else decide ((ctrlLen c).toNat ≤ 2 ^ (ctrlWidth c).toNat)) := rfl
  rw [hformula, Width.bytes_ofCode]
  cases ctrlDir c <;> simp [and_assoc]

/-- The well-formed CTRL words are the encodings of the eight operations (30_encoding.md R43). -/
theorem wfCtrl_iff_encoded (c : Ctrl) : wfCtrl c = true ↔
    (∃ w : Width, c = w.code.setWidth 16) ∨
    ∃ (w : Width) (len : BitVec 4), len.toNat ≤ w.bytes ∧ c = decCtrl w len := by
  rw [wfCtrl_iff]
  constructor
  · rintro ⟨hrsv1, hrsv0, ⟨hdir, hlen⟩ | ⟨hdir, hlen⟩⟩
    · exact .inl ⟨_, eq_encCtrl hrsv1 hrsv0 hdir hlen⟩
    · exact .inr ⟨_, _, hlen, eq_decCtrl hrsv1 hrsv0 hdir⟩
  · rintro (⟨w, rfl⟩ | ⟨w, len, hlen, rfl⟩)
    · simp
    · simpa using hlen

/-- The decoder accepts exactly the well-formed CTRL words, whatever DATA is. -/
theorem wfCtrl_iff_decode (c : Ctrl) (data : Word) :
    wfCtrl c = true ↔ ∃ i, decode ⟨c, data⟩ = .ok i := by
  constructor
  · rw [wfCtrl_iff_encoded]
    rintro (⟨w, rfl⟩ | ⟨w, len, hlen, rfl⟩)
    · exact ⟨_, decode_encCtrl data w⟩
    · exact ⟨_, decode_decCtrl data hlen⟩
  · rintro ⟨i, h⟩
    obtain ⟨hrsv1, hrsv0, ⟨hdir, hlen, -⟩ | ⟨hdir, hlen, -⟩⟩ := decode_eq_ok data h
    · exact (wfCtrl_iff c).mpr ⟨hrsv1, hrsv0, .inl ⟨hdir, hlen⟩⟩
    · exact (wfCtrl_iff c).mpr ⟨hrsv1, hrsv0, .inr ⟨hdir, hlen⟩⟩

theorem decode_eq_error_of_not_wfCtrl {c : Ctrl} (h : wfCtrl c = false) (data : Word) :
    ∃ why, decode ⟨c, data⟩ = .error why := by
  cases hd : decode ⟨c, data⟩ with
  | error why => exact ⟨why, rfl⟩
  | ok i =>
    have hwf := (wfCtrl_iff_decode c data).mpr ⟨i, hd⟩
    simp [h] at hwf

/-- Settles O1: the first eight words are encodings, and each of the last four fails one check. -/
theorem sampleRequestsDecode : Obligations.SampleRequestsDecode := fun data =>
  ⟨decode_encCtrl data .w8, decode_encCtrl data .w16, decode_encCtrl data .w32,
    decode_encCtrl data .w64, decode_decCtrl (w := .w8) (len := 1#4) data (by decide),
    decode_decCtrl (w := .w16) (len := 1#4) data (by decide),
    decode_decCtrl (w := .w32) (len := 3#4) data (by decide),
    decode_decCtrl (w := .w64) (len := 8#4) data (by decide),
    decode_of_encodeLen data rfl rfl rfl (by decide), decode_of_rsv0 data rfl rfl,
    decode_of_rsv1 data (by decide), decode_of_decodeLen data rfl rfl rfl (by decide)⟩

/-! ### The rows of the opcode map (30_encoding.md R43) -/

/-- The four widths, in the order of 00_scope.md R5. -/
def Width.all : List Width := [.w8, .w16, .w32, .w64]

@[simp] theorem Width.mem_all (w : Width) : w ∈ Width.all := by cases w <;> decide

/-- The row of a width's encode: its one CTRL word under the full mask. -/
def encRow (w : Width) : OpcodeRow :=
  ⟨(encInstr w 0#64).mnemonic, w.code.setWidth 16, 0xFFFF#16, 0⟩

/-- The row of a width's decode: every field but LEN under the mask, and LEN at most n. -/
def decRow (w : Width) : OpcodeRow :=
  ⟨(decInstr w 0#4 0#64).mnemonic, decCtrl w 0#4, 0xFF0F#16, w.bytes⟩

theorem opcodeTable_eq : opcodeTable = Width.all.map encRow ++ Width.all.map decRow := rfl

theorem mem_opcodeTable (row : OpcodeRow) :
    row ∈ opcodeTable ↔ (∃ w, row = encRow w) ∨ ∃ w, row = decRow w := by
  rw [opcodeTable_eq, List.mem_append, List.mem_map, List.mem_map]
  simp only [Width.mem_all, true_and, eq_comm]

theorem mnemonic_encInstr (w : Width) (data : Word) :
    (encInstr w data).mnemonic = (encRow w).mnemonic := by cases w <;> rfl

theorem mnemonic_decInstr (w : Width) (len : BitVec 4) (data : Word) :
    (decInstr w len data).mnemonic = (decRow w).mnemonic := by cases w <;> rfl

theorem OpcodeRow.accepts_iff (row : OpcodeRow) (c : Ctrl) :
    row.accepts c = true ↔ c &&& row.mask = row.pattern ∧ (ctrlLen c).toNat ≤ row.maxLen := by
  simp [OpcodeRow.accepts]

theorem encRow_accepts (w : Width) (c : Ctrl) :
    (encRow w).accepts c = true ↔ c = w.code.setWidth 16 := by
  have hmask : c &&& (encRow w).mask = c := BitVec.and_allOnes
  rw [OpcodeRow.accepts_iff, hmask]
  refine ⟨And.left, fun h => ⟨h, ?_⟩⟩
  rw [h, ctrlLen_encCtrl]
  exact Nat.le_refl 0

/-- The mask of a decode's row clears LEN and keeps the other fields. -/
theorem and_decMask_fields (c : Ctrl) :
    ctrlWidth (c &&& 0xFF0F#16) = ctrlWidth c ∧ ctrlDir (c &&& 0xFF0F#16) = ctrlDir c ∧
    ctrlRsv0 (c &&& 0xFF0F#16) = ctrlRsv0 c ∧ ctrlLen (c &&& 0xFF0F#16) = 0#4 ∧
    ctrlRsv1 (c &&& 0xFF0F#16) = ctrlRsv1 c := by
  have hfield : ∀ start len, (c &&& 0xFF0F#16).extractLsb' start len =
      c.extractLsb' start len &&& (0xFF0F#16).extractLsb' start len := fun start len =>
    BitVec.extractLsb'_and
  simp only [ctrlWidth, ctrlDir, ctrlRsv0, ctrlLen, ctrlRsv1, hfield, BitVec.getLsbD_and]
  refine ⟨BitVec.and_allOnes, Bool.and_true _, Bool.and_true _, BitVec.and_zero, BitVec.and_allOnes⟩

theorem decRow_accepts (w : Width) (c : Ctrl) :
    (decRow w).accepts c = true ↔ ∃ len : BitVec 4, len.toNat ≤ w.bytes ∧ c = decCtrl w len := by
  obtain ⟨hwidth, hdir, hrsv0, hlen, hrsv1⟩ := and_decMask_fields c
  rw [OpcodeRow.accepts_iff]
  simp only [decRow]
  constructor
  · rintro ⟨hpattern, hle⟩
    rw [hpattern] at hwidth hdir hrsv0 hrsv1
    refine ⟨ctrlLen c, hle, ctrl_ext ?_ ?_ ?_ ?_ ?_⟩ <;> simp [← hwidth, ← hdir, ← hrsv0, ← hrsv1]
  · rintro ⟨len, hle, rfl⟩
    exact ⟨ctrl_ext (by simp [hwidth]) (by simp [hdir]) (by simp [hrsv0]) (by simp [hlen])
      (by simp [hrsv1]), by simpa using hle⟩

/-- A row that accepts a CTRL word is an encode's or a decode's by the word's DIR, and its width is the word's. -/
theorem row_of_accepts {row : OpcodeRow} {c : Ctrl} (hrow : row ∈ opcodeTable)
    (h : row.accepts c = true) : wfCtrl c = true ∧
      row = if ctrlDir c then decRow (Width.ofCode (ctrlWidth c))
        else encRow (Width.ofCode (ctrlWidth c)) := by
  rw [wfCtrl_iff_encoded]
  obtain ⟨w, rfl⟩ | ⟨w, rfl⟩ := (mem_opcodeTable row).mp hrow
  · obtain rfl := (encRow_accepts w c).mp h
    exact ⟨.inl ⟨w, rfl⟩, by simp⟩
  · obtain ⟨len, hlen, rfl⟩ := (decRow_accepts w c).mp h
    exact ⟨.inr ⟨w, len, hlen, rfl⟩, by simp⟩

/-- A well-formed CTRL word is accepted by the row of the operation it decodes to. -/
theorem exists_row_of_wfCtrl {c : Ctrl} (h : wfCtrl c = true) (data : Word) :
    ∃ row ∈ opcodeTable, row.accepts c = true ∧
      ∃ i, decode ⟨c, data⟩ = .ok i ∧ i.mnemonic = row.mnemonic := by
  obtain ⟨w, rfl⟩ | ⟨w, len, hlen, rfl⟩ := (wfCtrl_iff_encoded c).mp h
  · exact ⟨encRow w, (mem_opcodeTable _).mpr (.inl ⟨w, rfl⟩), (encRow_accepts w _).mpr rfl,
      _, decode_encCtrl data w, mnemonic_encInstr w data⟩
  · exact ⟨decRow w, (mem_opcodeTable _).mpr (.inr ⟨w, rfl⟩),
      (decRow_accepts w _).mpr ⟨len, hlen, rfl⟩, _, decode_decCtrl data hlen,
      mnemonic_decInstr w len data⟩

/-- The CTRL words of a width's decode, one for each LEN from 0 to n. -/
def decCtrls (w : Width) : List Ctrl :=
  (List.range (w.bytes + 1)).map fun l => decCtrl w (BitVec.ofNat 4 l)

theorem mem_decCtrls (w : Width) (c : Ctrl) :
    c ∈ decCtrls w ↔ ∃ len : BitVec 4, len.toNat ≤ w.bytes ∧ c = decCtrl w len := by
  have hn := w.bytes_le_eight
  simp only [decCtrls, List.mem_map, List.mem_range, Nat.lt_succ_iff]
  constructor
  · rintro ⟨l, hl, rfl⟩
    refine ⟨BitVec.ofNat 4 l, ?_, rfl⟩
    rw [BitVec.toNat_ofNat]
    omega
  · rintro ⟨len, hlen, rfl⟩
    exact ⟨len.toNat, hlen, by rw [BitVec.ofNat_toNat, BitVec.setWidth_eq]⟩

theorem legalCtrls_eq : legalCtrls =
    (Width.all.map fun w => w.code.setWidth 16) ++ Width.all.flatMap decCtrls := rfl

theorem wfCtrl_iff_mem_legalCtrls (c : Ctrl) : wfCtrl c = true ↔ c ∈ legalCtrls := by
  rw [wfCtrl_iff_encoded, legalCtrls_eq, List.mem_append, List.mem_map, List.mem_flatMap]
  simp only [Width.mem_all, true_and, mem_decCtrls, eq_comm]

/-- Settles O5: a row accepts just the encodings of its operation, so DIR and WIDTH single it out. -/
theorem opcodeMapDecides : Obligations.OpcodeMapDecides := by
  refine ⟨fun c data hwf => ?_, fun c hwf row hrow => ?_, wfCtrl_iff_mem_legalCtrls, rfl, by decide⟩
  · obtain ⟨row, hrow, haccepts, hdecode⟩ := exists_row_of_wfCtrl hwf data
    refine ⟨row, hrow, haccepts, fun other hother h => ?_, hdecode⟩
    rw [(row_of_accepts hother h).2, ← (row_of_accepts hrow haccepts).2]
  · refine Bool.eq_false_iff.mpr fun h => ?_
    simp [(row_of_accepts hrow h).1] at hwf

end Sys2Proof

namespace Sys2Proof.Machine

/-! ### A step by what the request decodes to -/

theorem step_of_decode_error {s : State} (ha : s.accepting = true) {why : Reserved}
    (h : decode s.request = .error why) : step s = .refused (.reservedEncoding why) := by
  rw [step_of_request ha, runRequest, State.fetch, h]

theorem step_of_decode_ok {s : State} (ha : s.accepting = true) {i : Instr}
    (h : decode s.request = .ok i) : step s = andThen (exec i s.beginEdge) State.endEdge := by
  rw [step_of_request ha, runRequest, State.fetch, h]

/-- Settles O4: the decoder accepts the well-formed CTRL words only, and every instruction it reads completes. -/
theorem runsExactlyTheWellFormed : Obligations.RunsExactlyTheWellFormed := by
  intro s ha
  constructor
  · intro hwf
    obtain ⟨i, hi⟩ := (wfCtrl_iff_decode s.pins.ctrl s.pins.data).mp hwf
    have hexec := everyOperationResponds i (encodeOfDecode _ i hi).1 s.beginEdge
    exact ⟨_, by rw [step_of_decode_ok ha hi, hexec, andThen_next]⟩
  · intro hwf
    obtain ⟨why, hwhy⟩ := decode_eq_error_of_not_wfCtrl hwf s.pins.data
    exact ⟨why, step_of_decode_error ha hwhy⟩

/-- Settles O6: a step that takes a request refuses it under the name the decoder gives. -/
theorem reservedKindsAreRefusedByName : Obligations.ReservedKindsAreRefusedByName := by
  intro s ha
  refine ⟨fun hrsv1 => ?_, fun hrsv1 hrsv0 => ?_, fun hrsv1 hrsv0 hdir hlen => ?_,
    fun hrsv1 hrsv0 hdir hlen => ?_⟩
  · exact step_of_decode_error ha (decode_of_rsv1 _ hrsv1)
  · exact step_of_decode_error ha (decode_of_rsv0 _ hrsv1 hrsv0)
  · exact step_of_decode_error ha (decode_of_encodeLen _ hrsv1 hrsv0 hdir hlen)
  · exact step_of_decode_error ha (decode_of_decodeLen _ hrsv1 hrsv0 hdir hlen)

/-- Settles O7: an encode is always well formed, and a decode checks its LEN first. -/
theorem illFormedInstrIsRefused : Obligations.IllFormedInstrIsRefused := by
  intro i s hwf
  obtain ⟨w, data, rfl⟩ | ⟨w, len, data, rfl⟩ := i.eq_encInstr_or_decInstr
  · simp at hwf
  · have hlen : ¬ len.toNat ≤ w.bytes := by simpa using hwf
    rw [exec_decInstr, decodeOp, if_neg hlen]

theorem decodeTableWord_eq_some {nbits w : Nat} {i : Instr} (h : decodeTableWord nbits w = some i) :
    decode (requestOfBits nbits w) = .ok i := by
  unfold decodeTableWord at h
  split at h
  · cases h; assumption
  · cases h

/-- Settles O38: a presented request is taken, and it is the table word's. -/
theorem fetchWordIsRun : Obligations.FetchWordIsRun := fun _ _ _ _ h =>
  step_of_decode_ok (State.presentRequest_accepting _ _) (decodeTableWord_eq_some h)

end Sys2Proof.Machine

namespace Sys2Proof

open Machine

/-! ### Assembling a line (30_encoding.md R47) -/

theorem two_pow_bits_le (w : Width) : 2 ^ w.bits ≤ 2 ^ 64 := by cases w <;> decide

/-- The shifts of R47 are the weights of 20_memory.md R23. -/
theorem asmData_eq_wordOfBytes (B : List Byte) : asmData B = wordOfBytes B := by
  simp only [asmData, wordOfBytes, Nat.shiftLeft_eq, Nat.pow_mul, Nat.reducePow]

theorem decodeOperand_wordOfBytes {B : List Byte} (h : B.length ≤ 8) :
    decodeOperand B.length (wordOfBytes B) = B := by
  refine List.ext_getElem (decodeOperand_length _ _) fun i hi hi' => ?_
  simp only [decodeOperand, List.getElem_map, List.getElem_range]
  rw [lane_wordOfBytes h (by omega), Nat.sub_sub_self (Nat.le_sub_one_of_lt hi'),
    List.getD_eq_getElem?_getD, List.getElem?_eq_getElem hi', Option.getD_some]

/-- Settles O8: CTRL is the encoding of the line's operation, and DATA its value or the word of its bytes. -/
theorem assembledLineDecodes : Obligations.AssembledLineDecodes := by
  refine ⟨fun w v hv => ?_, fun w v hv => if_neg (Nat.not_lt.mpr hv), fun w B hB => ?_,
    fun w B hB => if_neg (Nat.not_le.mpr hB)⟩
  · refine ⟨_, if_pos hv, decode_encCtrl _ w, ?_⟩
    have hword := Nat.lt_of_lt_of_le hv (two_pow_bits_le w)
    rw [encodeOperand_eq, BitVec.toNat_ofNat, Nat.mod_eq_of_lt hword, Nat.mod_eq_of_lt hv]
  · have hn := w.bytes_le_eight
    have hlen : (BitVec.ofNat 4 B.length).toNat = B.length := by
      rw [BitVec.toNat_ofNat]
      omega
    refine ⟨_, _, if_pos hB, decode_decCtrl _ (by rwa [hlen]), hlen, ?_⟩
    rw [asmData_eq_wordOfBytes, decodeOperand_wordOfBytes (by omega)]

/-- Settles O9: each line is read and assembled. -/
theorem sampleLinesAssemble : Obligations.SampleLinesAssemble :=
  ⟨by decide, by decide, by decide, by decide, by decide, by decide, by decide⟩

/-! ### Reading back what was written -/

theorem digitValue_digitChar {base v : Nat} (hbase : base ≤ 16) (hv : v < base) :
    digitValue base (digitChar v) = some v := by
  have hdigits : ∀ b ≤ 16, ∀ d < b, digitValue b (digitChar d) = some d := by decide
  exact hdigits base hbase v hv

/-- A digit after a nonempty run of digits shifts the run's value by one place. -/
theorem digitsValue_concat {base n v : Nat} {cs : List Char} {c : Char}
    (hcs : digitsValue base cs = some n) (hc : digitValue base c = some v) :
    digitsValue base (cs ++ [c]) = some (n * base + v) := by
  cases cs with
  | nil => cases hcs
  | cons d ds =>
    simp only [digitsValue, List.foldl_cons] at hcs
    simp only [digitsValue, List.cons_append, List.foldl_cons, List.foldl_append, hcs, hc,
      List.foldl_nil]

theorem digitsValue_singleton {base v : Nat} {c : Char} (hc : digitValue base c = some v) :
    digitsValue base [c] = some v := by
  simp [digitsValue, hc]

/-- `k` written digits read back as the value they had room for. -/
theorem digitsValue_writeDigits {base : Nat} (hpos : 0 < base) (hbase : base ≤ 16) (k v : Nat) :
    digitsValue base (writeDigits base (k + 1) v) = some (v % base ^ (k + 1)) := by
  induction k generalizing v with
  | zero =>
    rw [Nat.pow_one]
    exact digitsValue_singleton (digitValue_digitChar hbase (Nat.mod_lt v hpos))
  | succ k ih =>
    rw [writeDigits, digitsValue_concat (ih (v / base))
      (digitValue_digitChar hbase (Nat.mod_lt v hpos)), Nat.pow_succ' (n := k + 1), Nat.mod_mul,
      Nat.add_comm, Nat.mul_comm]

theorem readValue_cons_of_ne_zero {c : Char} (hc : c ≠ '0') (cs : List Char) :
    readValue (c :: cs) = digitsValue 10 (c :: cs) := by
  unfold readValue
  split
  · rename_i h
    cases h
    exact absurd rfl hc
  · rfl

theorem digitsValue_zero_cons {c : Char} (cs : List Char) :
    digitsValue 10 ('0' :: c :: cs) = digitsValue 10 (c :: cs) := rfl

/-- Decimal digits without their leading zeros are all gone if the value is 0, and else read as the same value. -/
theorem readValue_dropWhile_zero {cs : List Char} {n : Nat} (h : digitsValue 10 cs = some n) :
    (cs.dropWhile (· = '0') = [] ∧ n = 0) ∨ readValue (cs.dropWhile (· = '0')) = some n := by
  induction cs with
  | nil => cases h
  | cons c cs ih =>
    by_cases hc : c = '0'
    · subst hc
      cases cs with
      | nil => exact .inl ⟨rfl, (Option.some.inj h).symm⟩
      | cons d ds => exact ih (digitsValue_zero_cons ds ▸ h)
    · rw [List.dropWhile_cons_of_neg (by simpa using hc), readValue_cons_of_ne_zero hc]
      exact .inr h

theorem readValue_writeResult_enc (w : Width) (value : Nat) (result : Word) :
    readValue (writeResult (.enc w value) result) = some result.toNat := by
  have hfits : result.toNat % 16 ^ 16 = result.toNat := Nat.mod_eq_of_lt result.isLt
  calc readValue (writeResult (.enc w value) result)
      = digitsValue 16 (writeDigits 16 16 result.toNat) := rfl
    _ = some result.toNat := by rw [digitsValue_writeDigits (by decide) (by decide), hfits]

theorem readValue_writeResult_dec (w : Width) (B : List Byte) (result : Word) :
    readValue (writeResult (.dec w B) result) = some result.toNat := by
  have hresult := result.isLt
  have hfits : result.toNat % 10 ^ 20 = result.toNat := Nat.mod_eq_of_lt (by omega)
  have hdigits := digitsValue_writeDigits (base := 10) (by decide) (by decide) 19 result.toNat
  rw [hfits] at hdigits
  unfold writeResult
  split
  · rename_i hline; cases hline
  · obtain ⟨hnil, hzero⟩ | hread := readValue_dropWhile_zero hdigits
    · rw [hnil, hzero]; rfl
    · split
      · rename_i hnil
        rw [hnil] at hread; cases hread
      · exact hread

/-- Settles O10: sixteen hex digits and twenty decimal ones have room for every RESULT. -/
theorem writtenResultReadsBack : Obligations.WrittenResultReadsBack := by
  intro line result
  cases line with
  | enc w value => exact readValue_writeResult_enc w value result
  | dec w B => exact readValue_writeResult_dec w B result

end Sys2Proof

namespace Sys2Proof.Machine

/-! ### What an operation reads from DATA (30_encoding.md R40, R41) -/

theorem exec_encInstr (w : Width) (data : Word) (s : State) :
    exec (encInstr w data) s = .next (s.respond (encResponse w data)) :=
  responds_encInstr w data s

/-- Settles O12: an encode reads DATA only through its operand, which is DATA mod 2^w. -/
theorem encodeIgnoresHighData : Obligations.EncodeIgnoresHighData := by
  intro w data
  refine ⟨encodeOperand_eq w data, ?_, fun data' s hlow => ?_⟩
  · rw [encodeOperand_eq]
    exact Nat.le_sub_one_of_lt (Nat.mod_lt _ (Nat.two_pow_pos _))
  · rw [exec_encInstr, exec_encInstr, encResponse, encResponse, encodeOperand_eq, encodeOperand_eq,
      hlow]

theorem decodeOperand_congr {L : Nat} {data data' : Word} (h : ∀ l < L, lane data l = lane data' l) :
    decodeOperand L data = decodeOperand L data' :=
  List.map_congr_left fun i hi => h _ (by have hL := List.mem_range.mp hi; omega)

theorem exec_decInstr_congr (w : Width) {len : BitVec 4} {data data' : Word} (s : State)
    (h : ∀ l < len.toNat, lane data l = lane data' l) :
    exec (decInstr w len data) s = exec (decInstr w len data') s := by
  simp only [exec_decInstr, decodeOp, decResponse, decodeOperand_congr h]

/-- Settles O13: a decode reads DATA only through the lanes of its operand. -/
theorem decodeIgnoresHighLanes : Obligations.DecodeIgnoresHighLanes := by
  refine ⟨fun L data => ⟨decodeOperand_length L data, fun i hi => ?_⟩,
    fun w len data data' s h => exec_decInstr_congr w s h,
    fun w data data' s => exec_decInstr_congr w s fun l hl => absurd hl l.not_lt_zero⟩
  rw [decodeOperand_getD data hi, lane_toNat]

/-! ### What an operation leaves in RESULT (30_encoding.md R42) -/

theorem encBytes_length_le_eight (w : Width) (V : Nat) : (encBytes w V).length ≤ 8 := by
  rw [encBytes_length]
  exact w.bytes_le_eight

/-- An encode's RESULT is the big-endian number of its bytes. -/
theorem encResponse_toNat (w : Width) (data : Word) :
    (encResponse w data).toNat = ((List.range w.bytes).map fun i =>
      ((encBytes w (encodeOperand w data)).getD i 0#8).toNat * 256 ^ (w.bytes - 1 - i)).sum := by
  rw [encResponse, wordOfBytes_toNat (encBytes_length_le_eight _ _), encBytes_length]

theorem lane_encResponse (w : Width) (data : Word) {i : Nat} (hi : i < w.bytes) :
    lane (encResponse w data) (w.bytes - 1 - i) =
      (encBytes w (encodeOperand w data)).getD i 0#8 := by
  rw [encResponse, lane_wordOfBytes (encBytes_length_le_eight _ _) (by rw [encBytes_length]; omega),
    encBytes_length, Nat.sub_sub_self (Nat.le_sub_one_of_lt hi)]

theorem encResponse_lt (w : Width) (data : Word) : (encResponse w data).toNat < 2 ^ (8 * w.bytes) := by
  have hsum := sum_bytes_lt (encBytes w (encodeOperand w data))
  rwa [encBytes_length, ← encResponse_toNat, show 256 ^ w.bytes = 2 ^ (8 * w.bytes) from
    (Nat.pow_mul 2 8 w.bytes).symm] at hsum

/-- A decode's value is a number of k decimal digits, or 0 if a nibble is no digit. -/
theorem decodedNumber_lt (w : Width) (L : Nat) (data : Word) : decodedNumber w L data < 10 ^ w.digits := by
  unfold decodedNumber
  split
  · rename_i hvalid
    refine sum_mul_pow_lt fun j _ => ?_
    unfold paddedNibble
    split
    · exact Nat.lt_succ_of_le (hvalid j ‹_›)
    · decide
  · exact Nat.pow_pos (by decide)

theorem ten_pow_digits_lt (w : Width) : 10 ^ w.digits - 1 < 2 ^ w.bits := by cases w <;> decide

theorem decValue_decodeOperand_le {w : Width} {L : Nat} (hL : L ≤ w.bytes) (data : Word) :
    decValue w (decodeOperand L data) ≤ 10 ^ w.digits - 1 := by
  rw [decValue_decodeOperand data hL]
  exact Nat.le_sub_one_of_lt (decodedNumber_lt w L data)

/-- A decode's value fits the word, so RESULT is the value. -/
theorem decResponse_toNat {w : Width} {L : Nat} (hL : L ≤ w.bytes) (data : Word) :
    (decResponse w L data).toNat = decValue w (decodeOperand L data) := by
  rw [decResponse, wordOfValue, BitVec.toNat_ofNat]
  refine Nat.mod_eq_of_lt ?_
  calc decValue w (decodeOperand L data)
      ≤ 10 ^ w.digits - 1 := decValue_decodeOperand_le hL data
    _ < 2 ^ w.bits := ten_pow_digits_lt w
    _ ≤ 2 ^ 64 := two_pow_bits_le w

/-- Settles O14: both responses fit the word whole, and each direction hands its own over. -/
theorem resultIsAssembled : Obligations.ResultIsAssembled :=
  ⟨fun w data => ⟨fun _ hi => lane_encResponse w data hi, encResponse_lt w data,
      encResponse_toNat w data, encBytes_length w _⟩,
    fun w _ data hL => ⟨decResponse_toNat hL data, decValue_decodeOperand_le hL data,
      ten_pow_digits_lt w⟩,
    responds_encInstr, fun _ _ data hlen => responds_decInstr hlen data⟩

end Sys2Proof.Machine

/-!
PROOFS of the family `40_encode.md`: the digit-extraction unit (R48 to R52), `enc_w` (R53, R54) and the four encodes (R55 to
R58). A sequence of up to 8 bytes is known by the nibbles of its word (`bytes_ext_nibbleAt`), and the nibbles of an encoding are
the decimal digits of its value (`nibbleAt_wordOfBytes_encBytes`). So `enc_w` writes in base 16 the digits that `dec_w` reads in
base 10, and each undoes the other.
-/

namespace Sys2Proof.Machine

/-! ### The digit-extraction unit (40_encode.md R48, R50, R52) -/

@[simp] theorem extractDigits_length (V k : Nat) : (extractDigits V k).length = k := by
  induction k generalizing V with
  | zero => rfl
  | succ k ih => rw [extractDigits, List.length_cons, ih]

theorem extractDigits_le_nine {V k : Nat} : ∀ d ∈ extractDigits V k, d ≤ 9 := by
  induction k generalizing V with
  | zero => exact fun d hd => absurd hd List.not_mem_nil
  | succ k ih =>
    rw [extractDigits, List.forall_mem_cons]
    exact ⟨Nat.le_of_lt_succ (Nat.mod_lt V (by decide)), ih⟩

/-- The unit never looks at a digit of weight 10^k or more. -/
theorem extractDigits_mod (V k : Nat) : extractDigits (V % 10 ^ k) k = extractDigits V k := by
  induction k generalizing V with
  | zero => rfl
  | succ k ih =>
    have hunits : V % 10 ^ (k + 1) % 10 = V % 10 := Nat.mod_mod_of_dvd V ⟨10 ^ k, Nat.pow_succ'⟩
    have hrest : V % 10 ^ (k + 1) / 10 = V / 10 % 10 ^ k := by
      rw [Nat.pow_succ', Nat.mod_mul_right_div_self]
    rw [extractDigits, extractDigits, hunits, hrest, ih]

theorem encBytes_mod (w : Width) (V : Nat) : encBytes w (V % 10 ^ w.digits) = encBytes w V := by
  rw [encBytes, encBytes, extractDigits_mod]

/-- The low k digits of V, by weight, make up V mod 10^k. -/
theorem sum_decimalDigit (V k : Nat) :
    ((List.range k).map fun j => decimalDigit V j * 10 ^ j).sum = V % 10 ^ k := by
  induction k with
  | zero => simp [Nat.mod_one]
  | succ k ih => rw [sum_range_add_one, ih, Nat.pow_succ, Nat.mod_mul, decimalDigit, Nat.mul_comm (10 ^ k)]

/-! ### A byte sequence by the nibbles of its word -/

theorem lane_congr_nibbleAt {x y : Word} {l : Nat} (hlo : nibbleAt x (2 * l) = nibbleAt y (2 * l))
    (hhi : nibbleAt x (2 * l + 1) = nibbleAt y (2 * l + 1)) : lane x l = lane y l := by
  rw [nibbleAt_two_mul, nibbleAt_two_mul, loNibble_eq, loNibble_eq] at hlo
  rw [nibbleAt_two_mul_add_one, nibbleAt_two_mul_add_one, hiNibble_eq, hiNibble_eq] at hhi
  exact BitVec.eq_of_toNat_eq (by omega)

theorem bytes_ext_nibbleAt {P Q : List Byte} (hlen : P.length = Q.length) (hQ : Q.length ≤ 8)
    (h : ∀ j < 2 * Q.length, nibbleAt (wordOfBytes P) j = nibbleAt (wordOfBytes Q) j) : P = Q := by
  have hlanes : ∀ l < Q.length, lane (wordOfBytes P) l = lane (wordOfBytes Q) l := fun l hl =>
    lane_congr_nibbleAt (h _ (by omega)) (h _ (by omega))
  rw [← decodeOperand_wordOfBytes hQ, ← decodeOperand_congr hlanes, ← hlen,
    decodeOperand_wordOfBytes (hlen ▸ hQ)]

theorem validBytes_iff_nibbleAt {P : List Byte} (hP : P.length ≤ 8) :
    validBytes P = true ↔ ∀ j < 2 * P.length, nibbleAt (wordOfBytes P) j ≤ 9 := by
  rw [← validBytes_decodeOperand, decodeOperand_wordOfBytes hP]

/-! ### The nibbles of an encoding are the digits of its value (40_encode.md R53) -/

theorem wordOfBytes_encBytes_toNat (w : Width) (V : Nat) :
    (wordOfBytes (encBytes w V)).toNat =
      ((List.range w.digits).map fun j => decimalDigit V j * 16 ^ j).sum := by
  rw [wordOfBytes_toNat (encBytes_length_le_eight w V), encBytes_length, encBytes_sum]

theorem nibbleAt_wordOfBytes_encBytes {w : Width} (V : Nat) {j : Nat} (hj : j < w.digits) :
    nibbleAt (wordOfBytes (encBytes w V)) j = decimalDigit V j := by
  rw [nibbleAt, wordOfBytes_encBytes_toNat]
  exact sum_mul_pow_digit (fun l _ => Nat.lt_trans (decimalDigit_lt V l) (by decide)) hj

theorem validBytes_encBytes (w : Width) (V : Nat) : validBytes (encBytes w V) = true := by
  rw [validBytes_iff_nibbleAt (encBytes_length_le_eight w V), encBytes_length, ← w.digits_eq]
  intro j hj
  rw [nibbleAt_wordOfBytes_encBytes V hj]
  exact Nat.le_of_lt_succ (decimalDigit_lt V j)

theorem nibbleAt_encResponse {w : Width} (data : Word) {j : Nat} (hj : j < w.digits) :
    nibbleAt (encResponse w data) j = decimalDigit (data.toNat % 2 ^ w.bits) j := by
  rw [encResponse, nibbleAt_wordOfBytes_encBytes _ hj, encodeOperand_eq]

theorem nibbles_encBytes (w : Width) (V : Nat) {i : Nat} (hi : i < w.bytes) :
    hiNibble ((encBytes w V).getD i 0#8) = decimalDigit V (2 * (w.bytes - 1 - i) + 1) ∧
      loNibble ((encBytes w V).getD i 0#8) = decimalDigit V (2 * (w.bytes - 1 - i)) := by
  have hhi := decimalDigit_lt V (2 * (w.bytes - 1 - i) + 1)
  have hlo := decimalDigit_lt V (2 * (w.bytes - 1 - i))
  rw [encBytes_getD w V hi, hiNibble_eq, loNibble_eq, packPair_toNat (by omega) (by omega)]
  omega

/-! ### `enc_w` and `dec_w` undo each other (40_encode.md R54) -/

/-- `dec_w` of a sequence is the closed form of its word. -/
theorem decValue_eq_decodedNumber {w : Width} {P : List Byte} (hlen : P.length ≤ w.bytes) :
    decValue w P = decodedNumber w P.length (wordOfBytes P) := by
  rw [← decValue_decodeOperand _ hlen, decodeOperand_wordOfBytes (Nat.le_trans hlen w.bytes_le_eight)]

theorem decValue_lt {w : Width} {P : List Byte} (hlen : P.length ≤ w.bytes) :
    decValue w P < 10 ^ w.digits := by
  rw [decValue_eq_decodedNumber hlen]
  exact decodedNumber_lt w _ _

/-- `dec_w` of a whole valid sequence reads the nibbles of its word as decimal digits. -/
theorem decValue_eq_sum_nibbleAt {w : Width} {P : List Byte} (hlen : P.length = w.bytes)
    (hvalid : validBytes P = true) :
    decValue w P = ((List.range w.digits).map fun j => nibbleAt (wordOfBytes P) j * 10 ^ j).sum := by
  have hnibbles := (validBytes_iff_nibbleAt (hlen ▸ w.bytes_le_eight)).mp hvalid
  rw [decValue_eq_decodedNumber (Nat.le_of_eq hlen), decodedNumber, if_pos hnibbles]
  refine congrArg List.sum (List.map_congr_left fun j hj => ?_)
  have hjk : j < 2 * P.length := by rw [hlen, ← w.digits_eq]; exact List.mem_range.mp hj
  rw [paddedNibble, if_pos hjk]

theorem decValue_encBytes (w : Width) (V : Nat) : decValue w (encBytes w V) = V % 10 ^ w.digits := by
  rw [decValue_eq_sum_nibbleAt (encBytes_length w V) (validBytes_encBytes w V), ← sum_decimalDigit]
  refine congrArg List.sum (List.map_congr_left fun j hj => ?_)
  rw [nibbleAt_wordOfBytes_encBytes V (List.mem_range.mp hj)]

/-- The digits of the decoded value are the nibbles it was read from. -/
theorem decimalDigit_decValue {w : Width} {P : List Byte} (hlen : P.length = w.bytes)
    (hvalid : validBytes P = true) {j : Nat} (hj : j < w.digits) :
    decimalDigit (decValue w P) j = nibbleAt (wordOfBytes P) j := by
  have hnibbles := (validBytes_iff_nibbleAt (hlen ▸ w.bytes_le_eight)).mp hvalid
  rw [hlen, ← w.digits_eq] at hnibbles
  rw [decimalDigit, decValue_eq_sum_nibbleAt hlen hvalid]
  exact sum_mul_pow_digit (fun l hl => Nat.lt_succ_of_le (hnibbles l hl)) hj

theorem encBytes_decValue {w : Width} {P : List Byte} (hlen : P.length = w.bytes)
    (hvalid : validBytes P = true) : encBytes w (decValue w P) = P := by
  refine bytes_ext_nibbleAt (by rw [encBytes_length, hlen]) (hlen ▸ w.bytes_le_eight) fun j hj => ?_
  rw [hlen, ← w.digits_eq] at hj
  rw [nibbleAt_wordOfBytes_encBytes _ hj, decimalDigit_decValue hlen hvalid hj]

theorem encBytes_zero (w : Width) : encBytes w 0 = List.replicate w.bytes 0#8 := by
  cases w <;> decide

/-- Settles O19: RESULT's nibbles are decimal digits, and the round trips go through them digit by digit. -/
theorem encoderOutputProperties : Obligations.EncoderOutputProperties := by
  intro w
  refine ⟨fun data j hj => ?_, encResponse_lt w, encBytes_zero w, fun V hV => ?_,
    fun P hlen hvalid => ⟨decValue_lt (Nat.le_of_eq hlen), encBytes_decValue hlen hvalid⟩⟩
  · rw [nibbleAt_encResponse data (by rwa [w.digits_eq])]
    exact Nat.le_of_lt_succ (decimalDigit_lt _ j)
  · exact ⟨encBytes_length w V, validBytes_encBytes w V, by
      rw [decValue_encBytes, Nat.mod_eq_of_lt hV]⟩

/-- Settles O15, by induction on k. -/
theorem digitsAreExtracted : Obligations.DigitsAreExtracted := fun V k =>
  ⟨extractDigits_length V k, fun _ hj => extractDigits_getD hj⟩

/-- Settles O16: every digit is a remainder mod 10, and the bytes hold digits only. -/
theorem encoderDigitsAreValid : Obligations.EncoderDigitsAreValid :=
  ⟨fun _ _ => extractDigits_le_nine, fun w V => (validBytes_iff _).mp (validBytes_encBytes w V)⟩

/-- Settles O17: the digits of V are those of V mod 10^k, and an encode reads its operand only through them. -/
theorem highDigitsAreDroppedSilently : Obligations.HighDigitsAreDroppedSilently := by
  refine ⟨fun w V => (encBytes_mod w V).symm, fun w data data' s hlow => ?_⟩
  have hresponse : encResponse w data' = encResponse w data := by
    rw [encResponse, encResponse, encodeOperand_eq, encodeOperand_eq, hlow, encBytes_mod]
  rw [exec_encInstr, exec_encInstr, hresponse]

/-- Settles O18: byte i is its digit pair, and the word is the same number by bytes and by digits. -/
theorem encodedBytesAndNumber : Obligations.EncodedBytesAndNumber := by
  intro w V
  refine ⟨encBytes_length w V, fun i hi => nibbles_encBytes w V hi, ?_, wordOfBytes_encBytes_toNat w V⟩
  rw [wordOfBytes_encBytes_toNat, encBytes_sum]

/-! ### The four encodes (40_encode.md R55 to R58) -/

theorem responds_of_encResponse_eq (w : Width) {data v : Word} (h : encResponse w data = v) :
    Responds (encInstr w data) v :=
  h ▸ responds_encInstr w data

theorem refusesReserved : RefusesReserved := fun s ha => (runsExactlyTheWellFormed s ha).2

/-- An encode's RESULT is its closed form as a number: the k digits fit the word. -/
theorem encResponse_toNat_eq_encodedNumber (w : Width) (data : Word) :
    (encResponse w data).toNat = encodedNumber w data := by
  rw [encResponse, wordOfBytes_encBytes_toNat, encodeOperand_eq, encodedNumber]

/-- P[i] stands in lane n−1−i of RESULT and is the digit pair {d[k−1−2i], d[k−2−2i]}. -/
theorem nibbles_lane_encResponse (w : Width) (data : Word) {i : Nat} (hi : i < w.bytes) :
    hiNibble (lane (encResponse w data) (w.bytes - 1 - i)) =
        decimalDigit (data.toNat % 2 ^ w.bits) (w.digits - 1 - 2 * i) ∧
      loNibble (lane (encResponse w data) (w.bytes - 1 - i)) =
        decimalDigit (data.toNat % 2 ^ w.bits) (w.digits - 2 - 2 * i) := by
  have hk := w.digits_eq
  rw [lane_encResponse w data hi, encodeOperand_eq,
    show w.digits - 1 - 2 * i = 2 * (w.bytes - 1 - i) + 1 by omega,
    show w.digits - 2 - 2 * i = 2 * (w.bytes - 1 - i) by omega]
  exact nibbles_encBytes w _ hi

theorem encodedNumber_w8 (data : Word) : encodedNumber .w8 data =
    16 * (data.toNat % 256 / 10 % 10) + data.toNat % 256 % 10 := by
  change ((List.range 2).map fun j => data.toNat % 256 / 10 ^ j % 10 * 16 ^ j).sum = _
  simp only [sum_range_add_one, List.range_zero, List.map_nil, List.sum_nil]
  omega

theorem encodedNumber_w16 (data : Word) : encodedNumber .w16 data =
    4096 * decimalDigit (data.toNat % 65536) 3 + 256 * decimalDigit (data.toNat % 65536) 2 +
      16 * decimalDigit (data.toNat % 65536) 1 + decimalDigit (data.toNat % 65536) 0 := by
  change ((List.range 4).map fun j => decimalDigit (data.toNat % 65536) j * 16 ^ j).sum = _
  simp only [sum_range_add_one, List.range_zero, List.map_nil, List.sum_nil]
  omega

/-- Settles O28: the two digits of an encode's closed form; the corner cases are computed. -/
theorem enc8Responds : Obligations.Enc8Responds := by
  refine ⟨fun data => ⟨decode_encCtrl data .w8, ?_⟩,
    responds_of_encResponse_eq .w8 (by decide), responds_of_encResponse_eq .w8 (by decide),
    responds_of_encResponse_eq .w8 (by decide), responds_of_encResponse_eq .w8 (by decide),
    responds_of_encResponse_eq .w8 (by decide), refusesReserved⟩
  rw [← encodedNumber_w8]
  exact responds_of_encResponse_eq .w8 (encResponse_eq .w8 data)

/-- Settles O29: the four digits of an encode's closed form; the corner cases are computed. -/
theorem enc16Responds : Obligations.Enc16Responds := by
  refine ⟨fun data => ⟨decode_encCtrl data .w16, ?_⟩,
    responds_of_encResponse_eq .w16 (by decide), responds_of_encResponse_eq .w16 (by decide),
    responds_of_encResponse_eq .w16 (by decide), responds_of_encResponse_eq .w16 (by decide),
    responds_of_encResponse_eq .w16 (by decide), refusesReserved⟩
  rw [← encodedNumber_w16]
  exact responds_of_encResponse_eq .w16 (encResponse_eq .w16 data)

/-- Settles O30: RESULT by its closed form and by its lanes; the corner cases are computed. -/
theorem enc32Responds : Obligations.Enc32Responds :=
  ⟨fun data => ⟨decode_encCtrl data .w32, encResponse .w32 data, responds_encInstr .w32 data,
      encResponse_toNat_eq_encodedNumber .w32 data, fun _ hi => nibbles_lane_encResponse .w32 data hi⟩,
    responds_of_encResponse_eq .w32 (by decide), responds_of_encResponse_eq .w32 (by decide),
    responds_of_encResponse_eq .w32 (by decide), responds_of_encResponse_eq .w32 (by decide),
    responds_of_encResponse_eq .w32 (by decide), refusesReserved⟩

/-- Settles O31: as at 32 bits, where DATA is the operand whole; the corner cases are computed. -/
theorem enc64Responds : Obligations.Enc64Responds := by
  refine ⟨fun data => ⟨decode_encCtrl data .w64, encResponse .w64 data, responds_encInstr .w64 data, ?_⟩,
    responds_of_encResponse_eq .w64 (by decide), responds_of_encResponse_eq .w64 (by decide),
    responds_of_encResponse_eq .w64 (by decide), responds_of_encResponse_eq .w64 (by decide),
    refusesReserved⟩
  have hwhole : data.toNat % 2 ^ 64 = data.toNat := Nat.mod_eq_of_lt data.isLt
  rw [← hwhole]
  exact ⟨encResponse_toNat_eq_encodedNumber .w64 data, fun _ hi => nibbles_lane_encResponse .w64 data hi⟩

end Sys2Proof.Machine

/-!
PROOFS of the family `41_decode.md`: padding and validity (R59, R61), the digit-reassembly unit and its chains (R62, R63), the
invalid-nibble policy (R64, R65), the laws of the codec (R67) and the four decodes (R68 to R71). A sequence of up to 8 bytes is
the whole operand of a decode of its own word (`decodeOperand_wordOfBytes`), so what holds of DATA's nibbles holds of it. The
first of m + 1 bytes adds its two digits at weight 100^m (`reassemble_cons`): the chains and the bound of R63 are inductions
on that equation.
-/

namespace Sys2Proof.Machine

/-! ### Padding (41_decode.md R59) -/

theorem padBytes_eq_self {n : Nat} {B : List Byte} (h : n ≤ B.length) : padBytes n B = B := by
  rw [padBytes, Nat.sub_eq_zero_of_le h, List.replicate_zero, List.nil_append]

theorem padBytes_nil (n : Nat) : padBytes n [] = List.replicate n 0#8 := List.append_nil _

/-- Settles O20: the padding bytes come first, and the lanes of DATA after them. -/
theorem paddingByPosition : Obligations.PaddingByPosition :=
  ⟨fun n B hB => ⟨padBytes_length hB, fun i _ => padBytes_getD n B i,
      fun hlen => padBytes_eq_self (Nat.le_of_eq hlen.symm)⟩,
    padBytes_nil, fun _ _ data hL _ hi => padBytes_decodeOperand_getD data hL hi⟩

/-! ### `dec_w` of padded, invalid and zero input (41_decode.md R64, R67) -/

theorem decValue_padBytes {w : Width} {B : List Byte} (h : B.length ≤ w.bytes) :
    decValue w (padBytes w.bytes B) = decValue w B := by
  rw [decValue, decValue, padBytes_eq_self (Nat.le_of_eq (padBytes_length h).symm)]

theorem decValue_of_invalid (w : Width) {B : List Byte} (h : validBytes B = false) :
    decValue w B = 0 := by
  simp [decValue, h]

theorem decValue_zeros (w : Width) : decValue w (List.replicate w.bytes 0#8) = 0 := by
  rw [← encBytes_zero, decValue_encBytes, Nat.zero_mod]

theorem decValue_nil (w : Width) : decValue w [] = 0 := by
  rw [← decValue_padBytes (B := []) (Nat.zero_le w.bytes), padBytes_nil, decValue_zeros]

/-! ### The laws of the codec (41_decode.md R67) -/

theorem encResponse_congr {w : Width} {data data' : Word}
    (h : data.toNat % 2 ^ w.bits = data'.toNat % 2 ^ w.bits) :
    encResponse w data = encResponse w data' := by
  rw [encResponse, encResponse, encodeOperand_eq, encodeOperand_eq, h]

theorem decResponse_congr (w : Width) {L : Nat} {data data' : Word}
    (h : ∀ l < L, lane data l = lane data' l) : decResponse w L data = decResponse w L data' := by
  rw [decResponse, decResponse, decodeOperand_congr h]

/-- Settles O26: `dec_w` of `enc_w` is the value mod 10^k, and `enc_w` of `dec_w` is the sequence, or the zeros of an invalid one. -/
theorem codecLaws : Obligations.CodecLaws := by
  intro w
  refine ⟨fun V hV => ?_, fun V _ => decValue_encBytes w V, fun B => encBytes_decValue,
    fun B _ hinvalid => ?_, fun B hB => (decValue_padBytes hB).symm,
    ⟨decValue_zeros w, decValue_nil w⟩, fun _ _ => encResponse_congr,
    fun _ _ _ _ => decResponse_congr w⟩
  · have hpos : 0 < 10 ^ w.digits := Nat.pow_pos (by decide)
    rw [decValue_encBytes, Nat.mod_eq_of_lt (by omega)]
  · rw [decValue_of_invalid w hinvalid, encBytes_zero]

/-- A decode with LEN = n of an encode's response reads the encode's bytes. -/
theorem decodeOperand_encResponse (w : Width) (data : Word) :
    decodeOperand w.bytes (encResponse w data) = encBytes w (encodeOperand w data) := by
  rw [← encBytes_length w (encodeOperand w data)]
  exact decodeOperand_wordOfBytes (encBytes_length_le_eight w _)

theorem decResponse_encResponse (w : Width) (data : Word) :
    decResponse w w.bytes (encResponse w data) =
      BitVec.ofNat 64 (data.toNat % 2 ^ w.bits % 10 ^ w.digits) := by
  rw [decResponse, decodeOperand_encResponse, decValue_encBytes, encodeOperand_eq, wordOfValue]

theorem responds_of_decResponse_eq (w : Width) {len : BitVec 4} {data v : Word}
    (hlen : len.toNat ≤ w.bytes) (h : decResponse w len.toNat data = v) :
    Responds (decInstr w len data) v :=
  h ▸ responds_decInstr hlen data

/-- Settles O27: the word between the two operations is the encode's response. -/
theorem roundTripThroughBlock : Obligations.RoundTripThroughBlock := fun w _ data hlen =>
  ⟨encResponse w data, responds_encInstr w data,
    responds_of_decResponse_eq w (Nat.le_of_eq hlen) (by rw [hlen, decResponse_encResponse])⟩

/-! ### Validity (41_decode.md R61) -/

theorem validBytes_iff_getD (P : List Byte) : validBytes P = true ↔
    ∀ i < P.length, hiNibble (P.getD i 0#8) ≤ 9 ∧ loNibble (P.getD i 0#8) ≤ 9 := by
  rw [validBytes_iff, List.forall_mem_iff_forall_getElem]
  exact forall₂_congr fun i hi => by
    rw [List.getD_eq_getElem?_getD, List.getElem?_eq_getElem hi, Option.getD_some]

/-- Settles O21: padding adds valid bytes only, and the operand is a function of the lanes below L. -/
theorem validityOfEveryNibble : Obligations.ValidityOfEveryNibble := by
  refine ⟨fun n B hB => ⟨?_, validBytes_padBytes n B⟩, fun n L data data' _ h => ?_⟩
  · rw [validBytes_iff_getD, padBytes_length hB]
  · rw [decodeOperand_congr h]

/-! ### The digit-reassembly unit (41_decode.md R62, R63) -/

/-- `X = Σ e[j]·10^j` over the nibbles of the sequence's word. -/
theorem reassemble_eq_sum_nibbleAt {P : List Byte} (hP : P.length ≤ 8) :
    reassemble P =
      ((List.range (2 * P.length)).map fun j => nibbleAt (wordOfBytes P) j * 10 ^ j).sum := by
  have hoperand : padBytes P.length (decodeOperand P.length (wordOfBytes P)) = P := by
    rw [decodeOperand_wordOfBytes hP, padBytes_eq_self (Nat.le_refl _)]
  calc reassemble P
      = reassemble (padBytes P.length (decodeOperand P.length (wordOfBytes P))) := by rw [hoperand]
    _ = ((List.range (2 * P.length)).map fun j =>
          paddedNibble P.length (wordOfBytes P) j * 10 ^ j).sum :=
        reassemble_padBytes_decodeOperand _ (Nat.le_refl _)
    _ = _ := congrArg List.sum (List.map_congr_left fun j hj => by
        rw [paddedNibble, if_pos (List.mem_range.mp hj)])

/-- Settles O22: the nibbles of a byte are its quotient and remainder by 16. -/
theorem reassemblyByPosition : Obligations.ReassemblyByPosition := fun P hP =>
  ⟨by simp only [reassemble, hiNibble_eq, loNibble_eq], reassemble_eq_sum_nibbleAt hP⟩

/-- The first byte has weight 100^m before m others. -/
theorem reassemble_cons (b : Byte) (P : List Byte) :
    reassemble (b :: P) = (10 * hiNibble b + loNibble b) * 100 ^ P.length + reassemble P := by
  have hweight : 10 ^ (2 * P.length) = 100 ^ P.length := Nat.pow_mul 10 2 P.length
  have hfirst : hiNibble b * 10 ^ (2 * P.length + 1) + loNibble b * 10 ^ (2 * P.length) =
      (10 * hiNibble b + loNibble b) * 100 ^ P.length := by
    rw [Nat.pow_succ', hweight, Nat.add_mul, Nat.mul_left_comm, Nat.mul_assoc]
  rw [reassemble, List.length_cons, List.range_succ_eq_map, List.map_cons, List.sum_cons,
    List.getD_cons_zero, Nat.sub_zero, Nat.add_sub_cancel, hfirst, List.map_map, reassemble]
  refine congrArg _ (congrArg List.sum (List.map_congr_left fun i _ => ?_))
  have hplace : P.length - Nat.succ i = P.length - 1 - i := by omega
  rw [Function.comp_apply, List.getD_cons_succ, hplace]

/-- The chain over bytes from any start: each byte moves what came before it up by two places. -/
theorem foldl_bytes_eq (P : List Byte) (acc : Nat) :
    P.foldl (fun acc b => acc * 100 + 10 * hiNibble b + loNibble b) acc =
      acc * 100 ^ P.length + reassemble P := by
  induction P generalizing acc with
  | nil => exact (Nat.mul_one acc).symm
  | cons b P ih =>
    rw [List.foldl_cons, ih, reassemble_cons, List.length_cons, Nat.pow_succ', Nat.add_assoc (acc * 100),
      Nat.add_mul, Nat.mul_assoc, Nat.add_assoc]

theorem reassemble_eq_foldl_bytes (P : List Byte) : reassemble P =
    P.foldl (fun acc b => acc * 100 + 10 * hiNibble b + loNibble b) 0 := by
  rw [foldl_bytes_eq, Nat.zero_mul, Nat.zero_add]

/-- Two Horner steps, one for each nibble of a byte, are one step of the chain over bytes. -/
theorem reassemble_eq_foldl_nibbles (P : List Byte) : reassemble P =
    (P.flatMap fun b => [hiNibble b, loNibble b]).foldl (fun acc e => acc * 10 + e) 0 := by
  rw [reassemble_eq_foldl_bytes, List.foldl_flatMap]
  refine congrArg (P.foldl · 0) (funext fun acc => funext fun b => ?_)
  simp only [List.foldl_cons, List.foldl_nil]
  omega

/-- The largest value is that of the nibbles 15: `X ≤ 15·(100^m − 1)/9` for m bytes. -/
theorem nine_mul_reassemble_add_le (P : List Byte) :
    9 * reassemble P + 15 ≤ 15 * 100 ^ P.length := by
  induction P with
  | nil => decide
  | cons b P ih =>
    have hpair : 10 * hiNibble b + loNibble b ≤ 165 := by
      have hb := b.isLt
      rw [hiNibble_eq, loNibble_eq]
      omega
    have hfirst := Nat.mul_le_mul_right (100 ^ P.length) hpair
    rw [reassemble_cons, List.length_cons, Nat.pow_succ']
    omega

/-- Settles O23: both chains add up the bytes by their weights; the bound is computed at each width. -/
theorem accumulationChainsAgree : Obligations.AccumulationChainsAgree := by
  refine ⟨reassemble_eq_foldl_bytes, reassemble_eq_foldl_nibbles, fun w P hlen => ⟨?_, ?_⟩⟩
  · have hbound := nine_mul_reassemble_add_le P
    have hweight : 10 ^ w.digits = 100 ^ w.bytes := by rw [w.digits_eq, Nat.pow_mul]
    rw [hlen, ← hweight] at hbound
    omega
  · cases w <;> decide

/-! ### The invalid-nibble policy and the range of a decode (41_decode.md R64, R65) -/

theorem decResponse_of_invalid (w : Width) {L : Nat} {data : Word}
    (h : ∃ j < 2 * L, 9 < nibbleAt data j) : decResponse w L data = 0#64 := by
  obtain ⟨j, hj, hnibble⟩ := h
  have hinvalid : validBytes (decodeOperand L data) = false := by
    refine Bool.eq_false_iff.mpr fun hvalid => ?_
    have hdigit := (validBytes_decodeOperand L data).mp hvalid j hj
    omega
  rw [decResponse, decValue_of_invalid w hinvalid, wordOfValue]

theorem decResponse_of_zero_nibbles {w : Width} {L : Nat} (hL : L ≤ w.bytes) {data : Word}
    (h : ∀ j < 2 * L, nibbleAt data j = 0) : decResponse w L data = 0#64 := by
  have hpadded : ∀ j, paddedNibble L data j = 0 := fun j => by
    unfold paddedNibble
    split
    · exact h j ‹_›
    · rfl
  have hsum : ((List.range w.digits).map fun j => paddedNibble L data j * 10 ^ j).sum = 0 := by
    simp only [hpadded, Nat.zero_mul, List.map_const', List.sum_replicate_nat, Nat.mul_zero]
  rw [decResponse_eq data hL, decodedNumber, hsum, ite_self]

/-- Settles O24: an invalid input and a zero input have the same response. -/
theorem invalidNibblePoisons : Obligations.InvalidNibblePoisons := by
  intro w len data hlen hinvalid
  have hpoisoned := responds_of_decResponse_eq w hlen (decResponse_of_invalid w hinvalid)
  have hzeros := responds_of_decResponse_eq w (data := 0#64) hlen
    (decResponse_of_zero_nibbles hlen fun j _ => by simp [nibbleAt])
  exact ⟨hpoisoned, fun s => (hpoisoned s).trans (hzeros s).symm⟩

theorem reassemble_eq_decValue {w : Width} {P : List Byte} (hlen : P.length = w.bytes)
    (hvalid : validBytes P = true) : reassemble P = decValue w P := by
  rw [decValue, padBytes_eq_self (Nat.le_of_eq hlen.symm), if_pos hvalid]

/-- Settles O25: the value of k digits is below 10^k. -/
theorem decodeResultFitsWidth : Obligations.DecodeResultFitsWidth := by
  refine ⟨fun w P hlen hvalid => ⟨?_, ten_pow_digits_lt w⟩, fun w L data hL => ?_⟩
  · rw [reassemble_eq_decValue hlen hvalid]
    exact Nat.le_sub_one_of_lt (decValue_lt (Nat.le_of_eq hlen))
  · rw [decResponse_toNat hL]
    exact Nat.div_eq_of_lt
      (Nat.lt_of_le_of_lt (decValue_decodeOperand_le hL data) (ten_pow_digits_lt w))

/-! ### The four decodes (41_decode.md R68 to R71) -/

/-- A decode's CTRL is its pattern of 30_encoding.md R43 with LEN added in bits 7:4. -/
theorem decCtrl_eq_add (w : Width) (len : BitVec 4) :
    decCtrl w len = decCtrl w 0#4 + 0x10#16 * len.setWidth 16 := by
  revert len; cases w <;> decide

theorem decode_of_len_le {w : Width} {len : BitVec 4} (hlen : len.toNat ≤ w.bytes) (data : Word) :
    decode ⟨decCtrl w 0#4 + 0x10#16 * len.setWidth 16, data⟩ = .ok (decInstr w len data) := by
  rw [← decCtrl_eq_add, decode_decCtrl data hlen]

/-- A LEN above n stops a decode twice: the decoder rejects its CTRL, and exec refuses the term. -/
theorem refused_of_bytes_lt_len {w : Width} {len : BitVec 4} (hlen : w.bytes < len.toNat)
    (data : Word) :
    decode ⟨decCtrl w 0#4 + 0x10#16 * len.setWidth 16, data⟩ = .error .decodeLen ∧
      ∀ s : State, exec (decInstr w len data) s = .refused (.reservedEncoding .decodeLen) := by
  refine ⟨?_, fun s => illFormedInstrIsRefused _ s (by simpa using hlen)⟩
  rw [← decCtrl_eq_add]
  refine decode_of_decodeLen data (ctrlRsv1_decCtrl w len) (ctrlRsv0_decCtrl w len)
    (ctrlDir_decCtrl w len) ?_
  rw [← Width.bytes_ofCode, ctrlWidth_decCtrl, ctrlLen_decCtrl, Width.ofCode_code]
  exact hlen

/-- The closed form of R62 and R64 over all k padded nibbles: padding is valid. -/
theorem decodedNumber_eq_paddedNibble {w : Width} {L : Nat} (hL : L ≤ w.bytes) (data : Word) :
    decodedNumber w L data = if ∀ j < w.digits, paddedNibble L data j ≤ 9 then
      ((List.range w.digits).map fun j => paddedNibble L data j * 10 ^ j).sum else 0 := by
  have hk := w.digits_eq
  have hvalid : (∀ j < 2 * L, nibbleAt data j ≤ 9) ↔ ∀ j < w.digits, paddedNibble L data j ≤ 9 := by
    constructor
    · intro h j _
      unfold paddedNibble
      split
      · exact h j ‹_›
      · decide
    · intro h j hj
      have hdigit := h j (by omega)
      rwa [paddedNibble, if_pos hj] at hdigit
  simp only [decodedNumber, hvalid]

theorem responds_decodedNumber {w : Width} {len : BitVec 4} (hlen : len.toNat ≤ w.bytes)
    (data : Word) : Responds (decInstr w len data) (BitVec.ofNat 64
      (if ∀ j < w.digits, paddedNibble len.toNat data j ≤ 9 then
        ((List.range w.digits).map fun j => paddedNibble len.toNat data j * 10 ^ j).sum else 0)) :=
  responds_of_decResponse_eq w hlen (by rw [decResponse_eq data hlen, decodedNumber_eq_paddedNibble hlen])

/-- With LEN = 0 no bit of DATA counts, and the empty input is zero. -/
theorem responds_zero_of_len_zero (w : Width) (data : Word) : Responds (decInstr w 0#4 data) 0#64 :=
  responds_of_decResponse_eq w (Nat.zero_le _)
    (decResponse_of_zero_nibbles (Nat.zero_le _) fun j hj => absurd hj j.not_lt_zero)

/-- The two digits of DEC8. -/
theorem decodedNumber_w8 {L : Nat} (hL : L ≤ 1) (data : Word) : decodedNumber .w8 L data =
    if paddedNibble L data 1 ≤ 9 ∧ paddedNibble L data 0 ≤ 9 then
      10 * paddedNibble L data 1 + paddedNibble L data 0 else 0 := by
  have hvalid : (∀ j < 2, paddedNibble L data j ≤ 9) ↔
      paddedNibble L data 1 ≤ 9 ∧ paddedNibble L data 0 ≤ 9 := by
    simp only [Nat.forall_lt_succ_right, Nat.not_lt_zero, false_imp_iff, implies_true, true_and]
    exact and_comm
  have hsum : ((List.range 2).map fun j => paddedNibble L data j * 10 ^ j).sum =
      10 * paddedNibble L data 1 + paddedNibble L data 0 := by
    simp only [sum_range_add_one, List.range_zero, List.map_nil, List.sum_nil]
    omega
  rw [decodedNumber_eq_paddedNibble (w := .w8) hL]
  simp only [Width.digits, hvalid, hsum]

/-- The four digits of DEC16. -/
theorem decodedNumber_w16 {L : Nat} (hL : L ≤ 2) (data : Word) : decodedNumber .w16 L data =
    if ∀ j < 4, paddedNibble L data j ≤ 9 then
      1000 * paddedNibble L data 3 + 100 * paddedNibble L data 2 +
        10 * paddedNibble L data 1 + paddedNibble L data 0 else 0 := by
  have hsum : ((List.range 4).map fun j => paddedNibble L data j * 10 ^ j).sum =
      1000 * paddedNibble L data 3 + 100 * paddedNibble L data 2 +
        10 * paddedNibble L data 1 + paddedNibble L data 0 := by
    simp only [sum_range_add_one, List.range_zero, List.map_nil, List.sum_nil]
    omega
  rw [decodedNumber_eq_paddedNibble (w := .w16) hL]
  simp only [Width.digits, hsum]

/-- Settles O32: the two digits of a decode's closed form; the corner cases are computed. -/
theorem dec8Responds : Obligations.Dec8Responds := by
  refine ⟨fun len data => ⟨fun hlen => ⟨decode_of_len_le (w := .w8) hlen data, ?_⟩,
      fun hlen => refused_of_bytes_lt_len (w := .w8) hlen data⟩,
    responds_of_decResponse_eq .w8 (by decide) (by decide),
    responds_of_decResponse_eq .w8 (by decide) (by decide),
    responds_of_decResponse_eq .w8 (by decide) (by decide),
    responds_of_decResponse_eq .w8 (by decide) (by decide),
    responds_of_decResponse_eq .w8 (by decide) (by decide), responds_zero_of_len_zero .w8,
    responds_of_decResponse_eq .w8 (by decide) (by decide),
    responds_of_decResponse_eq .w8 (by decide) (by decide), refusesReserved⟩
  rw [← decodedNumber_w8 hlen]
  exact responds_of_decResponse_eq .w8 hlen (decResponse_eq data hlen)

/-- Settles O33: the four digits of a decode's closed form; the corner cases are computed. -/
theorem dec16Responds : Obligations.Dec16Responds := by
  refine ⟨fun len data => ⟨fun hlen => ⟨decode_of_len_le (w := .w16) hlen data, ?_⟩,
      fun hlen => refused_of_bytes_lt_len (w := .w16) hlen data⟩,
    responds_of_decResponse_eq .w16 (by decide) (by decide),
    responds_of_decResponse_eq .w16 (by decide) (by decide),
    responds_of_decResponse_eq .w16 (by decide) (by decide),
    responds_of_decResponse_eq .w16 (by decide) (by decide),
    responds_of_decResponse_eq .w16 (by decide) (by decide), responds_zero_of_len_zero .w16,
    responds_of_decResponse_eq .w16 (by decide) (by decide), refusesReserved⟩
  rw [← decodedNumber_w16 hlen]
  exact responds_of_decResponse_eq .w16 hlen (decResponse_eq data hlen)

/-- Settles O34: a decode's closed form at eight digits; the corner cases are computed. -/
theorem dec32Responds : Obligations.Dec32Responds :=
  ⟨fun len data => ⟨fun hlen =>
        ⟨decode_of_len_le (w := .w32) hlen data, responds_decodedNumber (w := .w32) hlen data⟩,
      fun hlen => refused_of_bytes_lt_len (w := .w32) hlen data⟩,
    responds_of_decResponse_eq .w32 (by decide) (by decide),
    responds_of_decResponse_eq .w32 (by decide) (by decide),
    responds_of_decResponse_eq .w32 (by decide) (by decide),
    responds_of_decResponse_eq .w32 (by decide) (by decide),
    responds_of_decResponse_eq .w32 (by decide) (by decide), responds_zero_of_len_zero .w32,
    responds_of_decResponse_eq .w32 (by decide) (by decide), refusesReserved⟩

/-- Settles O35: a decode's closed form at sixteen digits; the corner cases are computed. -/
theorem dec64Responds : Obligations.Dec64Responds :=
  ⟨fun len data => ⟨fun hlen =>
        ⟨decode_of_len_le (w := .w64) hlen data, responds_decodedNumber (w := .w64) hlen data⟩,
      fun hlen => refused_of_bytes_lt_len (w := .w64) hlen data⟩,
    responds_of_decResponse_eq .w64 (by decide) (by decide),
    responds_of_decResponse_eq .w64 (by decide) (by decide),
    responds_of_decResponse_eq .w64 (by decide) (by decide),
    responds_of_decResponse_eq .w64 (by decide) (by decide),
    responds_of_decResponse_eq .w64 (by decide) (by decide), responds_zero_of_len_zero .w64,
    refusesReserved⟩

end Sys2Proof.Machine

/-!
PROOFS of the family `70_reset_and_hazards.md`. A step without reset is two halves of an edge with `State.midEdge` between them:
the queue is aged and the closed-form response of the request taken, if any, is last in it. What an edge shows, what it leaves
in flight and what it adds to the observation follow from that state; runs are inductions over the inputs that `State.Drives`
lists, or over the edges left.
-/

namespace Sys2Proof.Machine

/-! ### A step without reset -/

/-- The state between the two halves of an edge without reset: the queue aged (or emptied by an asynchronous reset since the
last edge), and the closed-form response of the request taken, if any, last in it. -/
def State.midEdge (s : State) : State :=
  if s.accepting then s.beginEdge.respond (expectedResponse s.request) else s.beginEdge

@[simp] theorem State.midEdge_params (s : State) : s.midEdge.params = s.params := by
  unfold State.midEdge; split <;> simp

@[simp] theorem State.midEdge_upcoming (s : State) : s.midEdge.upcoming = s.upcoming := by
  unfold State.midEdge; split <;> simp

@[simp] theorem State.midEdge_observed (s : State) : s.midEdge.observed = s.observed := by
  unfold State.midEdge; split <;> simp

/-- What a step adds to the queue: the closed-form response of the request it takes, `LATENCY` edges away, or nothing. -/
def State.taken (s : State) : List Pending :=
  if s.accepting then [⟨expectedResponse s.request, s.params.latency⟩] else []

theorem State.taken_of_accepting {s : State} (h : s.accepting = true) :
    s.taken = [⟨expectedResponse s.request, s.params.latency⟩] := by
  simp [State.taken, h]

theorem State.taken_of_not_accepting {s : State} (h : s.accepting = false) : s.taken = [] := by
  simp [State.taken, h]

theorem State.wait_of_mem_taken {s : State} {p : Pending} (h : p ∈ s.taken) :
    p.wait = s.params.latency := by
  unfold State.taken at h
  split at h
  · rw [List.mem_singleton.mp h]
  · cases h

theorem State.midEdge_inFlight (s : State) :
    s.midEdge.inFlight = s.beginEdge.inFlight ++ s.taken := by
  unfold State.midEdge State.taken
  split <;> simp

theorem State.resetAtEdge_of_accepting {s : State} (h : s.accepting = true) :
    s.resetAtEdge = false := by
  simpa using (Bool.and_eq_true_iff.mp h).2

/-- A well-formed request runs an operation that hands over its closed form. -/
theorem exec_of_wfCtrl {s : State} (hwf : wfCtrl s.pins.ctrl = true) :
    ∃ i, decode s.request = .ok i ∧ Responds i (expectedResponse s.request) := by
  obtain ⟨i, hi⟩ := (wfCtrl_iff_decode s.pins.ctrl s.pins.data).mp hwf
  obtain ⟨hi_wf, hencode⟩ := encodeOfDecode s.request i hi
  have hresponds := everyOperationResponds i hi_wf
  rw [hencode] at hresponds
  exact ⟨i, hi, hresponds⟩

/-- Without reset at the edge, a step whose request is well formed if it is taken goes through `midEdge`. -/
theorem step_eq_midEdge {s : State} (hreset : s.resetAtEdge = false)
    (hwf : s.accepting = true → wfCtrl s.pins.ctrl = true) :
    step s = .next s.midEdge.endEdge := by
  cases ha : s.accepting with
  | true =>
    obtain ⟨i, hi, hresponds⟩ := exec_of_wfCtrl (hwf ha)
    rw [step_of_decode_ok ha hi, hresponds, andThen_next, State.midEdge, if_pos ha]
    rfl
  | false => rw [step_of_idle hreset ha, State.midEdge, ha, if_neg Bool.false_ne_true]

/-- A step without reset that answers a next state took no request, or a well-formed one. -/
theorem eq_midEdge_of_step_next {s t : State} (hreset : s.resetAtEdge = false)
    (h : step s = .next t) : t = s.midEdge.endEdge := by
  have hwf : s.accepting = true → wfCtrl s.pins.ctrl = true := by
    intro ha
    cases hwf : wfCtrl s.pins.ctrl with
    | true => rfl
    | false =>
      obtain ⟨why, hwhy⟩ := refusesReserved s ha hwf
      cases h.symm.trans hwhy
  cases h.symm.trans (step_eq_midEdge hreset hwf)
  rfl

/-- Settles O37: a step that takes a request fetches it, and an instruction that is decoded is run. -/
theorem stepRunsDecoded : Obligations.StepRunsDecoded := fun _ _ ha h => step_of_decode_ok ha h

/-! ### The queue between the two halves of an edge -/

theorem State.PipelineOk.midEdgeOk {s : State} (h : s.PipelineOk) : s.midEdge.MidEdgeOk := by
  unfold State.midEdge
  split
  · exact h.midEdgeOk_respond _
  · exact h.midEdgeOk_beginEdge

/-- Presenting takes away exactly what is due. -/
theorem State.MidEdgeOk.present_inFlight {s : State} (h : s.MidEdgeOk) :
    s.present.inFlight = s.inFlight.filter fun p => 0 < p.wait := by
  obtain ⟨v, later, hq, hp⟩ | ⟨hhead, hp⟩ := s.present_cases
  · have hlater := (List.pairwise_cons.mp (hq ▸ h.ordered)).1
    rw [hp, hq, List.filter_cons_of_neg (by simp), List.filter_eq_self.mpr (by simpa using hlater)]
  · have hpos := wait_pos_of_head h.ordered hhead
    rw [hp, State.showNothing_inFlight, List.filter_eq_self.mpr (by simpa [Nat.succ_le_iff] using hpos)]

/-- A response that is due is the oldest, so it is the one that is shown. -/
theorem State.MidEdgeOk.present_of_due {s : State} (h : s.MidEdgeOk) {v : Word}
    (hdue : ⟨v, 0⟩ ∈ s.inFlight) :
    s.present.respValid = true ∧ s.present.result = v ∧ s.present.observed = s.observed ++ [v] := by
  obtain ⟨u, later, hq, hp⟩ | ⟨hhead, -⟩ := s.present_cases
  · have hlater := (List.pairwise_cons.mp (hq ▸ h.ordered)).1
    obtain heq | hmem := List.mem_cons.mp (hq ▸ hdue)
    · cases heq
      simp [hp]
    · exact absurd (hlater _ hmem) (Nat.lt_irrefl 0)
  · exact absurd (wait_pos_of_head h.ordered hhead _ hdue) (Nat.not_succ_le_zero 0)

/-! ### An edge with no reset around it -/

section noReset
variable {s : State} (h : s.pins.noReset)
include h

theorem resetAtEdge_of_noReset : s.resetAtEdge = false := by simp [State.resetAtEdge, h.1]

theorem accepting_of_noReset : s.accepting = takes s.params s.pins := by
  simp [State.accepting, takes, resetAtEdge_of_noReset h]

theorem beginEdge_inFlight_of_noReset :
    s.beginEdge.inFlight = s.inFlight.map fun p => ⟨p.word, p.wait - 1⟩ := by
  simp [State.resetBetween, h.2]

theorem midEdge_inFlight_of_noReset : s.midEdge.inFlight =
    (s.inFlight.map fun p => ⟨p.word, p.wait - 1⟩) ++ s.taken := by
  rw [State.midEdge_inFlight, beginEdge_inFlight_of_noReset h]

end noReset

theorem takes_of_latency_pos {c : Params} (h : 1 ≤ c.latency) (p : Pins) :
    takes c p = p.reqValid := by
  simp [takes, Nat.one_le_iff_ne_zero.mp h]

/-- With `LATENCY` ≥ 1 the queue after an edge is the queue before it, one edge nearer and less what was due, and then what was
taken. -/
theorem endEdge_inFlight_of_noReset {s : State} (hok : s.PipelineOk) (hlatency : 1 ≤ s.params.latency)
    (h : s.pins.noReset) : s.midEdge.endEdge.inFlight =
      ((s.inFlight.filter fun p => 1 < p.wait).map fun p => ⟨p.word, p.wait - 1⟩) ++ s.taken := by
  have htaken : s.taken.filter (fun p => 0 < p.wait) = s.taken :=
    List.filter_eq_self.mpr fun p hp => by
      rw [State.wait_of_mem_taken hp]
      exact decide_eq_true hlatency
  have haged : s.inFlight.filter (fun p => 0 < p.wait - 1) = s.inFlight.filter fun p => 1 < p.wait :=
    List.filter_congr fun p _ => decide_eq_decide.mpr Nat.sub_pos_iff_lt
  rw [State.endEdge_inFlight, hok.midEdgeOk.present_inFlight, midEdge_inFlight_of_noReset h,
    List.filter_append, List.filter_map, htaken, ← haged]
  rfl

/-- Settles O41: the step goes through `midEdge`, whose queue ends with what was taken. -/
theorem requestAcceptance : Obligations.RequestAcceptance := by
  intro s hok hlatency hno
  have haccepting : s.accepting = s.pins.reqValid := by
    rw [accepting_of_noReset hno, takes_of_latency_pos hlatency]
  have hstep := step_eq_midEdge (resetAtEdge_of_noReset hno)
  have hqueue := endEdge_inFlight_of_noReset hok hlatency hno
  refine ⟨fun hreq hwf => ⟨_, hstep fun _ => hwf, ?_⟩, fun hreq => ⟨_, hstep fun ha => ?_, ?_⟩⟩
  · rw [hqueue, State.taken_of_accepting (haccepting.trans hreq)]
  · cases (haccepting.trans hreq).symm.trans ha
  · rw [hqueue, State.taken_of_not_accepting (haccepting.trans hreq), List.append_nil]

/-- Settles O43: a response one edge away is due in the middle of the edge; if none is, nothing is due there, since what is
taken is `LATENCY` ≥ 1 edges away. -/
theorem outputsShowWhatIsDue : Obligations.OutputsShowWhatIsDue := by
  intro s t hok hlatency hno hstep
  obtain rfl := eq_midEdge_of_step_next (resetAtEdge_of_noReset hno) hstep
  have hqueue := midEdge_inFlight_of_noReset hno
  constructor
  · rintro ⟨v, wait⟩ hp rfl
    have hdue : ⟨v, 0⟩ ∈ s.midEdge.inFlight := by
      rw [hqueue]
      exact List.mem_append_left _ (List.mem_map.mpr ⟨_, hp, rfl⟩)
    simpa using hok.midEdgeOk.present_of_due hdue
  · intro hnone
    have hidle : ∀ p ∈ s.midEdge.inFlight, p.wait ≠ 0 := by
      intro p hp
      obtain hp | hp := List.mem_append.mp (hqueue ▸ hp)
      · obtain ⟨q, hq, rfl⟩ := List.mem_map.mp hp
        have hpos := (hok.bounds q hq).1
        have hne := hnone q hq
        dsimp only
        omega
      · have hwait := State.wait_of_mem_taken hp
        omega
    simp [State.present_idle hidle]

/-! ### A combinational block (R81, R83) -/

section combinational
variable {s : State} (h : s.params.latency = 0)
include h

theorem accepting_of_combinational : s.accepting = true := by
  simp [State.accepting, State.resetAtEdge, h]

theorem midEdge_of_combinational : s.midEdge = s.age.respond (expectedResponse s.request) := by
  rw [State.midEdge, if_pos (accepting_of_combinational h),
    State.beginEdge_of_not_resetBetween (by simp [State.resetBetween, h])]

end combinational

theorem State.PipelineOk.inFlight_eq_nil {s : State} (hok : s.PipelineOk)
    (hwithin : ∀ p ∈ s.inFlight, p.wait ≤ 0) : s.inFlight = [] :=
  List.eq_nil_iff_forall_not_mem.mpr fun p hp =>
    absurd (Nat.le_trans (hok.bounds p hp).1 (hwithin p hp)) (Nat.not_succ_le_zero 0)

/-- Settles O42: nothing was in flight, so the response to the request presented is the oldest, and it is due. -/
theorem combinationalResponse : Obligations.CombinationalResponse := by
  intro s hok hlatency hwf
  have ha := accepting_of_combinational hlatency
  have hnil : s.inFlight = [] := hok.inFlight_eq_nil fun p hp => hlatency ▸ (hok.bounds p hp).2
  have hqueue : s.midEdge.inFlight = ⟨expectedResponse s.request, 0⟩ :: [] := by
    simp [midEdge_of_combinational hlatency, hnil, hlatency]
  refine ⟨_, step_eq_midEdge (State.resetAtEdge_of_accepting ha) fun _ => hwf, ?_⟩
  simp [State.present_due hqueue]

/-- `s` with other values on RST for the coming step. -/
def State.withRst (s : State) (level pulse : Bool) : State :=
  { s with pins := { s.pins with rst := level, rstPulse := pulse } }

theorem State.withRst_present (s : State) (level pulse : Bool) :
    (s.withRst level pulse).present = s.present.withRst level pulse := by
  obtain ⟨v, later, hq, hp⟩ | ⟨hq, hp⟩ := s.present_cases
  · rw [hp, State.present_due (s := s.withRst level pulse) hq]; rfl
  · obtain ⟨v, later, hq', -⟩ | ⟨-, hp'⟩ := (s.withRst level pulse).present_cases
    · exact absurd rfl (hq ⟨v, 0⟩ later hq')
    · rw [hp, hp']; rfl

/-- The requester's next inputs do not depend on RST. -/
theorem State.withRst_endEdge (s : State) (level pulse : Bool) :
    (s.withRst level pulse).endEdge = s.endEdge := by
  rw [State.endEdge, State.endEdge, State.withRst_present]
  cases h : s.upcoming <;> simp [State.driveNext, State.withRst, h]

theorem step_withRst_of_combinational {s : State} (h : s.params.latency = 0) (level pulse : Bool) :
    step (s.withRst level pulse) = step s := by
  have ha : s.accepting = true := accepting_of_combinational h
  have ha' : (s.withRst level pulse).accepting = true := accepting_of_combinational h
  cases hwf : wfCtrl s.pins.ctrl with
  | true =>
    have hmid : (s.withRst level pulse).midEdge = s.midEdge.withRst level pulse := by
      rw [midEdge_of_combinational h, midEdge_of_combinational (s := s.withRst level pulse) h]; rfl
    rw [step_eq_midEdge (State.resetAtEdge_of_accepting ha) fun _ => hwf,
      step_eq_midEdge (State.resetAtEdge_of_accepting ha') fun _ => hwf, hmid, State.withRst_endEdge]
  | false =>
    obtain ⟨why, hwhy⟩ := decode_eq_error_of_not_wfCtrl hwf s.pins.data
    rw [step_of_decode_error ha hwhy, step_of_decode_error ha' hwhy]

/-- Settles O39: with `LATENCY` ≥ 1 the step is the reset edge; with `LATENCY` = 0 nothing reads RST. -/
theorem resetDiscardsEverything : Obligations.ResetDiscardsEverything := by
  refine ⟨fun s hlatency hrst => ⟨s.resetEdge, step_of_reset ?_, ?_⟩,
    fun s level pulse h => step_withRst_of_combinational h level pulse⟩
  · simp [State.resetAtEdge, hrst, Nat.one_le_iff_ne_zero.mp hlatency]
  · simp

/-! ### The response shown (R84, R86) -/

/-- Presenting leaves RESULT the last observed response, or RESP_VALID = 0. -/
theorem State.endEdge_shownOk (s : State) : s.endEdge.ShownOk := by
  unfold State.ShownOk
  obtain ⟨v, later, -, hp⟩ | ⟨-, hp⟩ := s.present_cases <;> simp [hp]

/-- Settles O47: a step ends with `resetEdge`, which shows nothing, or with presenting. -/
theorem stepKeepsShownResponse : Obligations.StepKeepsShownResponse := by
  intro s t _ hstep
  obtain ⟨-, rfl⟩ | ⟨-, i, v, -, -, rfl⟩ | ⟨-, -, rfl⟩ := step_cases hstep
  · exact fun hvalid => absurd (s.resetEdge_respValid.symm.trans hvalid) Bool.false_ne_true
  · exact State.endEdge_shownOk _
  · exact State.endEdge_shownOk _

/-! ### The inputs of the coming steps (log 3) -/

/-- The requester drives `ps`, one set of inputs for each coming step, and after them no request and no reset. -/
def State.Drives (s : State) : List Pins → Prop
  | [] => s.pins.reqValid = false ∧ s.pins.noReset ∧ s.upcoming = []
  | p :: later => s.pins = p ∧ s.upcoming = later

theorem State.driving_drives (s : State) (ps : List Pins) : (s.driving ps).Drives ps := by
  cases ps with
  | nil => exact ⟨rfl, ⟨rfl, rfl⟩, rfl⟩
  | cons p later => exact ⟨rfl, rfl⟩

theorem State.endEdge_drives (s : State) : s.endEdge.Drives s.upcoming := by
  cases h : s.upcoming <;> simp [State.Drives, State.endEdge, Pins.noReset, h]

theorem State.Drives.upcoming_eq {s : State} {ps : List Pins} (h : s.Drives ps) :
    s.upcoming = ps.tail := by
  cases ps with
  | nil => exact h.2.2
  | cons p later => exact h.2

theorem State.Drives.midEdge_endEdge {s : State} {ps : List Pins} (h : s.Drives ps) :
    s.midEdge.endEdge.Drives ps.tail := by
  simpa [h.upcoming_eq] using s.midEdge.endEdge_drives

/-- Inputs without reset whose request, if the block takes it, is well formed. -/
def Pins.Servable (c : Params) (p : Pins) : Prop := p.noReset ∧ (takes c p = true → wfCtrl p.ctrl = true)

theorem step_of_servable {s : State} (h : s.pins.Servable s.params) :
    step s = .next s.midEdge.endEdge :=
  step_eq_midEdge (resetAtEdge_of_noReset h.1) fun ha => h.2 (accepting_of_noReset h.1 ▸ ha)

theorem State.PipelineOk.midEdge_endEdge {s : State} (h : s.PipelineOk) :
    s.midEdge.endEdge.PipelineOk :=
  h.midEdgeOk.pipelineOk_endEdge

/-- With `LATENCY` ≥ 1 the inputs after the end of the list can be served too. -/
theorem State.Drives.servable {s : State} {ps : List Pins} (h : s.Drives ps)
    (hlatency : 1 ≤ s.params.latency) (hps : ∀ p ∈ ps.head?, p.Servable s.params) :
    s.pins.Servable s.params := by
  cases ps with
  | nil =>
    obtain ⟨hreq, hno, -⟩ := h
    exact ⟨hno, fun htakes => by simp [takes_of_latency_pos hlatency, hreq] at htakes⟩
  | cons p later =>
    obtain ⟨rfl, -⟩ := h
    exact hps _ rfl

/-! ### Runs, one step at a time -/

theorem steps_succ_of_next {s t : State} (h : step s = .next t) (k : Nat) :
    steps (k + 1) s = steps k t := by
  simp [steps, Host.Core.run, core, h]

theorem steps_succ_of_refused {s : State} {r : Refusal} (h : step s = .refused r) (k : Nat) :
    steps (k + 1) s = .refused r := by
  simp [steps, Host.Core.run, core, h]

/-! ### From request to response (R82, R84) -/

theorem mem_take_succ_of_mem_take_tail {ps : List Pins} {p : Pins} {k : Nat} (h : p ∈ ps.tail.take k) :
    p ∈ ps.take (k + 1) := by
  cases ps with
  | nil => simp at h
  | cons q later => exact List.mem_cons_of_mem q h

/-- A response `k` edges away is shown after `k` more steps, since every step until then can be served: it comes one edge nearer
in each, and only what is due leaves the queue. -/
theorem shown_after_wait {v : Word} {k : Nat} {s : State} (hok : s.MidEdgeOk)
    (hv : ⟨v, k⟩ ∈ s.inFlight) (hps : ∀ p ∈ s.upcoming.take k, p.Servable s.params) :
    ∃ t, steps k s.endEdge = .next t ∧ t.respValid = true ∧ t.result = v := by
  induction k generalizing s with
  | zero =>
    obtain ⟨hvalid, hresult, -⟩ := hok.present_of_due hv
    exact ⟨s.endEdge, rfl, by rwa [State.endEdge_respValid], by rwa [State.endEdge_result]⟩
  | succ k ih =>
    have hlatency : k + 1 ≤ s.params.latency := hok.within _ hv
    have hservable : s.endEdge.pins.Servable s.endEdge.params :=
      s.endEdge_drives.servable (by rw [State.endEdge_params]; omega) fun p hp => by
        rw [State.endEdge_params]
        exact hps p (List.mem_of_mem_head? (by simpa [List.head?_take] using hp))
    have hpending : ⟨v, k + 1⟩ ∈ s.endEdge.inFlight := by
      rw [State.endEdge_inFlight, hok.present_inFlight]
      exact List.mem_filter.mpr ⟨hv, by simp⟩
    have hnearer : ⟨v, k⟩ ∈ s.endEdge.midEdge.inFlight := by
      rw [midEdge_inFlight_of_noReset hservable.1]
      exact List.mem_append_left _ (List.mem_map.mpr ⟨_, hpending, rfl⟩)
    rw [steps_succ_of_next (step_of_servable hservable)]
    refine ih hok.pipelineOk_endEdge.midEdgeOk hnearer fun p hp => ?_
    rw [State.midEdge_upcoming, State.endEdge_upcoming] at hp
    rw [State.midEdge_params, State.endEdge_params]
    exact hps p (mem_take_succ_of_mem_take_tail hp)

/-- Settles O44: the step that takes the request puts its response `LATENCY` edges away. -/
theorem responseAfterLatency : Obligations.ResponseAfterLatency := by
  intro s hok ha hwf hps
  have hservable : ∀ p ∈ s.upcoming.take s.params.latency, p.Servable s.params := by
    intro p hp
    have hlatency : 1 ≤ s.params.latency :=
      Nat.one_le_iff_ne_zero.mpr fun h0 => by simp [h0] at hp
    rw [Pins.Servable, takes_of_latency_pos hlatency]
    exact hps p hp
  have hmem : ⟨expectedResponse s.request, s.params.latency⟩ ∈ s.midEdge.inFlight := by
    simp [State.midEdge_inFlight, State.taken_of_accepting ha]
  rw [steps_succ_of_next (step_eq_midEdge (State.resetAtEdge_of_accepting ha) fun _ => hwf)]
  exact shown_after_wait hok.midEdgeOk hmem (by simpa using hservable)

/-- Settles O50: right after reset nothing is in flight and no later inputs are listed. -/
theorem firstRequestAfterReset : Obligations.FirstRequestAfterReset := by
  intro r hwf
  refine responseAfterLatency (State.reset.presentRequest r)
    (State.pipelineOk_of_inFlight_nil rfl) rfl hwf fun p hp => ?_
  simp [State.reset] at hp

/-! ### A run's responses (R86) -/

/-- The responses presented so far, and after them the ones still in flight. -/
def State.history (s : State) : List Word := s.observed ++ s.inFlight.map Pending.word

/-- Presenting only moves a response from the queue to the observation. -/
theorem State.endEdge_history (s : State) : s.endEdge.history = s.history := by
  unfold State.history
  obtain ⟨v, later, hq, hp⟩ | ⟨-, hp⟩ := s.present_cases
  · simp [hp, hq]
  · simp [hp]

theorem observation_cons (c : Params) (p : Pins) (ps : List Pins) :
    observation c (p :: ps) = observation c [p] ++ observation c ps := by
  simp [observation, List.filter_cons]
  split <;> simp

theorem words_taken {s : State} (h : s.pins.noReset) :
    s.taken.map Pending.word = observation s.params [s.pins] := by
  rw [State.taken, accepting_of_noReset h]
  cases htakes : takes s.params s.pins with
  | true => simp [observation, htakes, State.request, Pins.request]
  | false => simp [observation, htakes]

theorem midEdge_endEdge_history {s : State} (h : s.pins.noReset) :
    s.midEdge.endEdge.history = s.history ++ observation s.params [s.pins] := by
  rw [State.endEdge_history, State.history, midEdge_inFlight_of_noReset h, List.map_append,
    words_taken h]
  simp [State.history, Function.comp_def]

/-- With no more requests, `k` steps present everything that is at most `k` edges away. -/
theorem steps_drain {s : State} {k : Nat} (hok : s.PipelineOk) (hdrives : s.Drives [])
    (hk : k ≤ s.params.latency) (hwithin : ∀ p ∈ s.inFlight, p.wait ≤ k) :
    ∃ t, steps k s = .next t ∧ t.inFlight = [] ∧ t.observed = s.history := by
  induction k generalizing s with
  | zero =>
    have hnil : s.inFlight = [] := hok.inFlight_eq_nil hwithin
    exact ⟨s, rfl, hnil, by simp [State.history, hnil]⟩
  | succ k ih =>
    have hlatency : 1 ≤ s.params.latency := by omega
    have ⟨hreq, hno, _⟩ := hdrives
    have hnone : s.accepting = false := by
      rw [accepting_of_noReset hno, takes_of_latency_pos hlatency, hreq]
    have hnearer : ∀ p ∈ s.midEdge.endEdge.inFlight, p.wait ≤ k := by
      rw [endEdge_inFlight_of_noReset hok hlatency hno, State.taken_of_not_accepting hnone,
        List.append_nil]
      intro p hp
      obtain ⟨q, hq, rfl⟩ := List.mem_map.mp hp
      have hle := hwithin q (List.mem_filter.mp hq).1
      dsimp only
      omega
    have hstep := step_eq_midEdge (resetAtEdge_of_noReset hno) fun ha => by simp [hnone] at ha
    have hhistory : s.midEdge.endEdge.history = s.history := by
      rw [midEdge_endEdge_history hno, ← words_taken hno, State.taken_of_not_accepting hnone,
        List.map_nil, List.append_nil]
    rw [steps_succ_of_next hstep, ← hhistory]
    exact ih hok.midEdge_endEdge hdrives.midEdge_endEdge (by simp; omega) hnearer

/-- Every step of a run adds the response of the request it takes to the history, and the `LATENCY` steps after the last present
what is left. -/
theorem steps_observation {s : State} {ps : List Pins} (hok : s.PipelineOk) (hdrives : s.Drives ps)
    (hps : ∀ p ∈ ps, p.Servable s.params) :
    ∃ t, steps (ps.length + s.params.latency) s = .next t ∧ t.inFlight = [] ∧
      t.observed = s.history ++ observation s.params ps := by
  induction ps generalizing s with
  | nil =>
    simpa [observation] using steps_drain hok hdrives (Nat.le_refl _) fun p hp => (hok.bounds p hp).2
  | cons p later ih =>
    obtain rfl := hdrives.1
    obtain ⟨hservable, hlater⟩ := List.forall_mem_cons.mp hps
    have hrest := ih hok.midEdge_endEdge hdrives.midEdge_endEdge (by simpa using hlater)
    rw [midEdge_endEdge_history hservable.1, State.endEdge_params, State.midEdge_params,
      List.append_assoc, ← observation_cons] at hrest
    rwa [List.length_cons, Nat.succ_add, steps_succ_of_next (step_of_servable hservable)]

/-- Settles O51: with nothing in flight the history is the observation. -/
theorem runObservation : Obligations.RunObservation := by
  intro s ps hnil hps
  have hempty : (s.driving ps).inFlight = [] := hnil
  have hrun := steps_observation (State.pipelineOk_of_inFlight_nil hempty) (s.driving_drives ps) hps
  rw [State.history, hempty, List.map_nil, List.append_nil] at hrun
  exact hrun

/-- A run up to its first request that is not well formed goes through steps that are served, and that request is refused. -/
theorem steps_refused {s : State} {ps : List Pins} (k : Nat) (hdrives : s.Drives ps)
    (hno : ∀ p ∈ ps, p.noReset)
    (hreserved : ∃ p ∈ ps, takes s.params p = true ∧ wfCtrl p.ctrl = false) :
    ∃ why, steps (ps.length + k) s = .refused (.reservedEncoding why) := by
  induction ps generalizing s with
  | nil => simp at hreserved
  | cons p later ih =>
    obtain rfl := hdrives.1
    obtain ⟨hfirst, hlater⟩ := List.forall_mem_cons.mp hno
    rw [List.length_cons, Nat.succ_add]
    by_cases hwf : takes s.params s.pins = true → wfCtrl s.pins.ctrl = true
    · have hrest : ∃ p ∈ later, takes s.params p = true ∧ wfCtrl p.ctrl = false := by
        obtain ⟨q, hq, htakes, hctrl⟩ := hreserved
        obtain rfl | hq := List.mem_cons.mp hq
        · simp [hwf htakes] at hctrl
        · exact ⟨q, hq, htakes, hctrl⟩
      rw [steps_succ_of_next (step_of_servable ⟨hfirst, hwf⟩)]
      exact ih hdrives.midEdge_endEdge hlater (by simpa using hrest)
    · obtain ⟨htakes, hctrl⟩ := Classical.not_imp.mp hwf
      obtain ⟨why, hwhy⟩ := refusesReserved s ((accepting_of_noReset hfirst).trans htakes)
        (by simpa using hctrl)
      exact ⟨why, steps_succ_of_refused hwhy _⟩

/-- Settles O52: the run reaches the request that is not well formed, or is refused before. -/
theorem runWithReservedRequestIsRefused : Obligations.RunWithReservedRequestIsRefused :=
  fun s ps _ hno hreserved => steps_refused _ (s.driving_drives ps) hno hreserved

end Sys2Proof.Machine
